-- ==== Sys2Proof/Word.lean ====
section
/-! DEFINITION. The word types of the core: bytes, 16-bit words, register and key numbers. -/

namespace Sys2Proof

/-- An 8-bit value: a register V0..VF, a timer, a byte of RAM (10_state.md R30, R41, R44). -/
abbrev Byte := BitVec 8

/-- A 16-bit value: an instruction word, `pc`, `I`, a stack slot (10_state.md R34, R38, R39). -/
abbrev Word := BitVec 16

/-- The 12-bit address field `nnn` of an instruction (00_scope.md R9). -/
abbrev Addr12 := BitVec 12

/-- A 4-bit field (00_scope.md R13 "Nibble"). -/
abbrev Nibble := BitVec 4

/-- A register number, 0..15 for V0..VF (10_state.md R30). -/
abbrev Reg := Fin 16

/-- A logical key code, 0..15 (44_timers_keys.md R250). -/
abbrev Key := Fin 16

/-- The flag register VF is register 15 (10_state.md R32, `FLAG_REG`). -/
abbrev flagReg : Reg := 15

/-- The number of bytes of RAM, `RAM_SIZE` (10_state.md R44). -/
abbrev ramSize : Nat := 4096

end Sys2Proof
end

