-- ==== Sys2Proof/Syntax.lean ====
section
/-! DEFINITION. The instructions: one constructor per row of spec/opcode_table.json, with every field of the
row's encoding as an argument (30_encoding.md R101, R105). -/

namespace Sys2Proof

/-- The fixed set of 35 instructions (00_scope.md R2). `x` and `y` are register numbers, `kk` the low byte, `n`
the low nibble, `nnn` the low 12 bits of the word (00_scope.md R9). -/
inductive Instr where
  /-- `00E0` CLS (R231) -/
  | cls
  /-- `00EE` RET (R131) -/
  | ret
  /-- `0nnn` SYS nnn, `nnn` not 0E0 or 0EE (R132) -/
  | sys (nnn : Addr12)
  /-- `1nnn` JP nnn (R133) -/
  | jp (nnn : Addr12)
  /-- `2nnn` CALL nnn (R134) -/
  | call (nnn : Addr12)
  /-- `3xkk` SE Vx, kk (R135) -/
  | seImm (x : Reg) (kk : Byte)
  /-- `4xkk` SNE Vx, kk (R136) -/
  | sneImm (x : Reg) (kk : Byte)
  /-- `5xy0` SE Vx, Vy (R137) -/
  | seReg (x y : Reg)
  /-- `6xkk` LD Vx, kk (R162) -/
  | ldImm (x : Reg) (kk : Byte)
  /-- `7xkk` ADD Vx, kk (R163) -/
  | addImm (x : Reg) (kk : Byte)
  /-- `8xy0` LD Vx, Vy (R164) -/
  | ldReg (x y : Reg)
  /-- `8xy1` OR Vx, Vy (R165) -/
  | orReg (x y : Reg)
  /-- `8xy2` AND Vx, Vy (R166) -/
  | andReg (x y : Reg)
  /-- `8xy3` XOR Vx, Vy (R167) -/
  | xorReg (x y : Reg)
  /-- `8xy4` ADD Vx, Vy (R168) -/
  | addReg (x y : Reg)
  /-- `8xy5` SUB Vx, Vy (R169) -/
  | subReg (x y : Reg)
  /-- `8xy6` SHR Vx; `y` is decoded and ignored (R170, R103) -/
  | shr (x y : Reg)
  /-- `8xy7` SUBN Vx, Vy (R171) -/
  | subn (x y : Reg)
  /-- `8xyE` SHL Vx; `y` is decoded and ignored (R172, R103) -/
  | shl (x y : Reg)
  /-- `9xy0` SNE Vx, Vy (R138) -/
  | sneReg (x y : Reg)
  /-- `Annn` LD I, nnn (R201) -/
  | ldI (nnn : Addr12)
  /-- `Bnnn` JP V0, nnn (R139) -/
  | jpV0 (nnn : Addr12)
  /-- `Cxkk` RND Vx, kk (R173) -/
  | rnd (x : Reg) (kk : Byte)
  /-- `Dxyn` DRW Vx, Vy, n (R232) -/
  | drw (x y : Reg) (n : Nibble)
  /-- `Ex9E` SKP Vx (R251) -/
  | skp (x : Reg)
  /-- `ExA1` SKNP Vx (R252) -/
  | sknp (x : Reg)
  /-- `Fx07` LD Vx, DT (R253) -/
  | ldVxDt (x : Reg)
  /-- `Fx0A` LD Vx, K (R254) -/
  | ldVxK (x : Reg)
  /-- `Fx15` LD DT, Vx (R256) -/
  | ldDtVx (x : Reg)
  /-- `Fx18` LD ST, Vx (R257) -/
  | ldStVx (x : Reg)
  /-- `Fx1E` ADD I, Vx (R202) -/
  | addI (x : Reg)
  /-- `Fx29` LD F, Vx (R203) -/
  | ldF (x : Reg)
  /-- `Fx33` LD B, Vx (R204) -/
  | ldB (x : Reg)
  /-- `Fx55` LD [I], Vx (R205) -/
  | storeRegs (x : Reg)
  /-- `Fx65` LD Vx, [I] (R206) -/
  | loadRegs (x : Reg)
deriving DecidableEq, Repr

end Sys2Proof
end

