-- ==== Sys2Proof/Decode.lean ====
section
/-! DEFINITION. The decoder (30_encoding.md R100 to R108), total on any bytes and rejecting by name, and the
encoder, written from the same table. -/

namespace Sys2Proof

/-- Why bytes are not an instruction. The five illegal classes are those of 30_encoding.md R106. -/
inductive DecodeError where
  /-- fewer than two bytes are left (R100: an instruction is exactly one 16-bit word) -/
  | truncated
  /-- `5xyN` with N ≠ 0 -/
  | illegalSeReg (w : Word)
  /-- `8xyN` with N in 8, 9, A, B, C, D, F -/
  | illegalAlu (w : Word)
  /-- `9xyN` with N ≠ 0 -/
  | illegalSneReg (w : Word)
  /-- `ExKK` with KK not 9E or A1 -/
  | illegalKey (w : Word)
  /-- `FxKK` with KK not in 07, 0A, 15, 18, 1E, 29, 33, 55, 65 -/
  | illegalMisc (w : Word)
deriving DecidableEq, Repr

/-- The opcode nibble `op[15:12]` (30_encoding.md R101). -/
def opNibble (w : Word) : Nibble := w.extractLsb' 12 4

/-- `x = op[11:8]` (00_scope.md R9). -/
def fieldX (w : Word) : Reg := (w.extractLsb' 8 4).toFin

/-- `y = op[7:4]` (00_scope.md R9). -/
def fieldY (w : Word) : Reg := (w.extractLsb' 4 4).toFin

/-- `n = op[3:0]` (00_scope.md R9). -/
def fieldN (w : Word) : Nibble := w.extractLsb' 0 4

/-- `kk = op[7:0]` (00_scope.md R9). -/
def fieldKk (w : Word) : Byte := w.extractLsb' 0 8

/-- `nnn = op[11:0]` (00_scope.md R9). -/
def fieldNnn (w : Word) : Addr12 := w.extractLsb' 0 12

/-- Group 0: the full-mask patterns CLS and RET take precedence over SYS (30_encoding.md R104). -/
def decodeGroup0 (w : Word) : Instr :=
  if w = 0x00E0#16 then .cls
  else if w = 0x00EE#16 then .ret
  else .sys (fieldNnn w)

/-- Group 8, selected by `n` (30_encoding.md R105). -/
def decodeGroup8 (w : Word) : Except DecodeError Instr :=
  let x := fieldX w
  let y := fieldY w
  match (fieldN w).toNat with
  | 0x0 => .ok (.ldReg x y)
  | 0x1 => .ok (.orReg x y)
  | 0x2 => .ok (.andReg x y)
  | 0x3 => .ok (.xorReg x y)
  | 0x4 => .ok (.addReg x y)
  | 0x5 => .ok (.subReg x y)
  | 0x6 => .ok (.shr x y)
  | 0x7 => .ok (.subn x y)
  | 0xE => .ok (.shl x y)
  | _ => .error (.illegalAlu w)

/-- Group E, selected by `kk` (30_encoding.md R105). -/
def decodeGroupE (w : Word) : Except DecodeError Instr :=
  let x := fieldX w
  match (fieldKk w).toNat with
  | 0x9E => .ok (.skp x)
  | 0xA1 => .ok (.sknp x)
  | _ => .error (.illegalKey w)

/-- Group F, selected by `kk` (30_encoding.md R105). -/
def decodeGroupF (w : Word) : Except DecodeError Instr :=
  let x := fieldX w
  match (fieldKk w).toNat with
  | 0x07 => .ok (.ldVxDt x)
  | 0x0A => .ok (.ldVxK x)
  | 0x15 => .ok (.ldDtVx x)
  | 0x18 => .ok (.ldStVx x)
  | 0x1E => .ok (.addI x)
  | 0x29 => .ok (.ldF x)
  | 0x33 => .ok (.ldB x)
  | 0x55 => .ok (.storeRegs x)
  | 0x65 => .ok (.loadRegs x)
  | _ => .error (.illegalMisc w)

/-- The opcode map, by `op[15:12]` (30_encoding.md R105). A function of the word alone (R105, R108). -/
def decodeWord (w : Word) : Except DecodeError Instr :=
  match (opNibble w).toNat with
  | 0x0 => .ok (decodeGroup0 w)
  | 0x1 => .ok (.jp (fieldNnn w))
  | 0x2 => .ok (.call (fieldNnn w))
  | 0x3 => .ok (.seImm (fieldX w) (fieldKk w))
  | 0x4 => .ok (.sneImm (fieldX w) (fieldKk w))
  | 0x5 => if fieldN w = 0 then .ok (.seReg (fieldX w) (fieldY w)) else .error (.illegalSeReg w)
  | 0x6 => .ok (.ldImm (fieldX w) (fieldKk w))
  | 0x7 => .ok (.addImm (fieldX w) (fieldKk w))
  | 0x8 => decodeGroup8 w
  | 0x9 => if fieldN w = 0 then .ok (.sneReg (fieldX w) (fieldY w)) else .error (.illegalSneReg w)
  | 0xA => .ok (.ldI (fieldNnn w))
  | 0xB => .ok (.jpV0 (fieldNnn w))
  | 0xC => .ok (.rnd (fieldX w) (fieldKk w))
  | 0xD => .ok (.drw (fieldX w) (fieldY w) (fieldN w))
  | 0xE => decodeGroupE w
  | _ => decodeGroupF w  -- the nibble is below 16, so only 0xF is left

/-- The instruction word of two bytes: the byte at the lower address is the high byte (20_memory.md R71). -/
def wordOfBytes (hi lo : Byte) : Word := hi ++ lo

/-- The high byte `w[15:8]` of a word. -/
def highByte (w : Word) : Byte := w.extractLsb' 8 8

/-- The low byte `w[7:0]` of a word. -/
def lowByte (w : Word) : Byte := w.extractLsb' 0 8

/-- Decode the instruction at the head of a byte stream and give the rest; a decoder always consumes two bytes
(30_encoding.md R108). -/
def decode : List Byte → Except DecodeError (Instr × List Byte)
  | hi :: lo :: rest => (decodeWord (wordOfBytes hi lo)).map fun i => (i, rest)
  | [_] => .error .truncated
  | [] => .error .truncated

/-- Format NNN: opcode, `nnn` (30_encoding.md R101). -/
def formatNnn (op : Nibble) (nnn : Addr12) : Word := op ++ nnn

/-- Format XKK: opcode, `x`, `kk`. Format X is this one with a fixed `kk` (30_encoding.md R101). -/
def formatXkk (op : Nibble) (x : Reg) (kk : Byte) : Word := op ++ BitVec.ofFin (w := 4) x ++ kk

/-- Formats XY and XYN: opcode, `x`, `y`, function or `n` (30_encoding.md R101). -/
def formatXyn (op : Nibble) (x y : Reg) (n : Nibble) : Word :=
  op ++ BitVec.ofFin (w := 4) x ++ BitVec.ofFin (w := 4) y ++ n

/-- The word of an instruction (30_encoding.md R101, R105). -/
def encode : Instr → Word
  | .cls => 0x00E0#16
  | .ret => 0x00EE#16
  | .sys nnn => formatNnn 0x0#4 nnn
  | .jp nnn => formatNnn 0x1#4 nnn
  | .call nnn => formatNnn 0x2#4 nnn
  | .seImm x kk => formatXkk 0x3#4 x kk
  | .sneImm x kk => formatXkk 0x4#4 x kk
  | .seReg x y => formatXyn 0x5#4 x y 0x0#4
  | .ldImm x kk => formatXkk 0x6#4 x kk
  | .addImm x kk => formatXkk 0x7#4 x kk
  | .ldReg x y => formatXyn 0x8#4 x y 0x0#4
  | .orReg x y => formatXyn 0x8#4 x y 0x1#4
  | .andReg x y => formatXyn 0x8#4 x y 0x2#4
  | .xorReg x y => formatXyn 0x8#4 x y 0x3#4
  | .addReg x y => formatXyn 0x8#4 x y 0x4#4
  | .subReg x y => formatXyn 0x8#4 x y 0x5#4
  | .shr x y => formatXyn 0x8#4 x y 0x6#4
  | .subn x y => formatXyn 0x8#4 x y 0x7#4
  | .shl x y => formatXyn 0x8#4 x y 0xE#4
  | .sneReg x y => formatXyn 0x9#4 x y 0x0#4
  | .ldI nnn => formatNnn 0xA#4 nnn
  | .jpV0 nnn => formatNnn 0xB#4 nnn
  | .rnd x kk => formatXkk 0xC#4 x kk
  | .drw x y n => formatXyn 0xD#4 x y n
  | .skp x => formatXkk 0xE#4 x 0x9E#8
  | .sknp x => formatXkk 0xE#4 x 0xA1#8
  | .ldVxDt x => formatXkk 0xF#4 x 0x07#8
  | .ldVxK x => formatXkk 0xF#4 x 0x0A#8
  | .ldDtVx x => formatXkk 0xF#4 x 0x15#8
  | .ldStVx x => formatXkk 0xF#4 x 0x18#8
  | .addI x => formatXkk 0xF#4 x 0x1E#8
  | .ldF x => formatXkk 0xF#4 x 0x29#8
  | .ldB x => formatXkk 0xF#4 x 0x33#8
  | .storeRegs x => formatXkk 0xF#4 x 0x55#8
  | .loadRegs x => formatXkk 0xF#4 x 0x65#8

/-- The two bytes of an instruction as RAM holds them, high byte first (20_memory.md R71). -/
def encodeBytes (i : Instr) : List Byte := [highByte (encode i), lowByte (encode i)]

/-- The first instruction word of a table word `w` of `nbits` bits (bits above `nbits` are zero). -/
def tableWord (nbits w : Nat) : Word := BitVec.ofNat 16 (w % 2 ^ nbits)

/-- The instruction the decoder reads from the bytes of a table word, laid out as RAM holds them. -/
def decodeTableWord (nbits w : Nat) : Option Instr :=
  match decode [highByte (tableWord nbits w), lowByte (tableWord nbits w)] with
  | .ok (i, _) => some i
  | .error _ => none

end Sys2Proof
end

