-- ==== Sys2Proof/Config.lean ====
section
/-! DEFINITION. What an implementation fixes (the parameters a model takes, 00_scope.md R6) and the free
values: the inputs of a step, which the spec leaves unconstrained (70_reset_and_hazards.md R359). -/

namespace Sys2Proof

/-- `VF_WRITE_ORDER` (10_state.md R33, 92_eei_decisions.md D3): which write stays when a flag-defining ALU
instruction also names VF as its destination. -/
inductive VfWriteOrder where
  | resultLast
  | flagLast
deriving DecidableEq, Repr

/-- `FONT` (10_state.md R47): sixteen glyphs of five bytes; glyph G is RAM bytes 5G to 5G+4 at construction. -/
abbrev Font := Vector (Vector Byte 5) 16

/-- The parameters of 00_scope.md R6 whose value the source does not fix and a program can observe. They are
plain data held in State and no step changes them, so that a statement about every state covers every value. -/
structure Params where
  font         : Font
  vfWriteOrder : VfWriteOrder
deriving DecidableEq, Repr

/-- The inputs of one step, the draws of 70_reset_and_hazards.md R359, as the signals of 60_exceptions.md R324:
whether the timer cadence has elapsed (`tick60`), the held keys (`key_held`, bit k for logical key k), the
random byte (`rnd`), and which key the key-wait port prefers to report (the draw `HeldKey`, R255). -/
structure StepInput where
  tick      : Bool
  keyHeld   : BitVec 16
  rnd       : Byte
  keyChoice : Key
deriving DecidableEq, Repr

/-- Free value (log 1): whether a timer-cadence period elapses before step number `n` (R362 "any Boolean"). -/
opaque Config.freeTick : Nat → Bool

/-- Free value (log 1): the held keys at step number `n` (R250, R323: the host may change any key at any time). -/
opaque Config.freeKeyHeld : Nat → BitVec 16

/-- Free value (log 1): the byte `draw Rand8()` yields at step number `n` (R173, D27: no distribution). -/
opaque Config.freeRandom : Nat → Byte

/-- Free value (log 1, log 15): the key the key-wait port prefers at step number `n` (R255, U5). -/
opaque Config.freeKeyChoice : Nat → Key

/-- Free value (log 36): `fault_code` at step number `n` while `fault` is low; 60_exceptions.md R324 states none. -/
opaque Config.freeFaultCode : Nat → BitVec 4

/-- The 16-bit fault signals of 60_exceptions.md R324. -/
inductive FaultWire where
  | pc
  | word
  | info
deriving DecidableEq, Repr

/-- Free value (log 36): a 16-bit fault signal at step number `n` where 60_exceptions.md R324 states none. `numbers`
are the numbers of the fault record, none while `fault` is low. -/
opaque Config.freeFaultWire : FaultWire → (n : Nat) → (numbers : List Nat) → Word

/-- The free inputs of step number `n`. -/
def Config.freeInput (n : Nat) : StepInput :=
  { tick := freeTick n, keyHeld := freeKeyHeld n, rnd := freeRandom n, keyChoice := freeKeyChoice n }

end Sys2Proof
end

