-- ==== Sys2Proof/Machine/Defaults.lean ====
section
/-! DEFINITION. The default values of the parameters: the conventional font table of 10_state.md R47 and the
decided VF_WRITE_ORDER (92_eei_decisions.md D3, D18). -/

namespace Sys2Proof.Machine

/-- PRESUMED (log 4): the table of 10_state.md R47, which the spec marks as general knowledge (GK1). -/
def defaultFont : Font :=
  #v[#v[0xF0, 0x90, 0x90, 0x90, 0xF0],  -- 0
     #v[0x20, 0x60, 0x20, 0x20, 0x70],  -- 1
     #v[0xF0, 0x10, 0xF0, 0x80, 0xF0],  -- 2
     #v[0xF0, 0x10, 0xF0, 0x10, 0xF0],  -- 3
     #v[0x90, 0x90, 0xF0, 0x10, 0x10],  -- 4
     #v[0xF0, 0x80, 0xF0, 0x10, 0xF0],  -- 5
     #v[0xF0, 0x80, 0xF0, 0x90, 0xF0],  -- 6
     #v[0xF0, 0x10, 0x20, 0x40, 0x40],  -- 7
     #v[0xF0, 0x90, 0xF0, 0x90, 0xF0],  -- 8
     #v[0xF0, 0x90, 0xF0, 0x10, 0xF0],  -- 9
     #v[0xF0, 0x90, 0xF0, 0x90, 0x90],  -- A
     #v[0xE0, 0x90, 0xE0, 0x90, 0xE0],  -- B
     #v[0xF0, 0x80, 0x80, 0x80, 0xF0],  -- C
     #v[0xE0, 0x90, 0x90, 0x90, 0xE0],  -- D
     #v[0xF0, 0x80, 0xF0, 0x80, 0xF0],  -- E
     #v[0xF0, 0x80, 0xF0, 0x80, 0x80]]  -- F

/-- DESIGN CHOICE of the spec (log 3): `result_last` is the decided value (92_eei_decisions.md D3). -/
def defaultVfWriteOrder : VfWriteOrder := .resultLast

/-- The parameters `State.reset` is constructed with. -/
def defaultParams : Params := { font := defaultFont, vfWriteOrder := defaultVfWriteOrder }

/-- The conventional load offset and entry point, 0x200 (70_reset_and_hazards.md R353, R354). -/
def conventionalOffset : Nat := 0x200

end Sys2Proof.Machine
end

