-- ==== Sys2Proof/Machine/Memory.lean ====
section
/-! DEFINITION. The RAM as a canonical list of cells (10_state.md R44, 20_memory.md R70, R78): addresses strictly
rising, below 4096, and no entry equal to what an unlisted address reads as. -/

namespace Sys2Proof.Machine

/-- The RAM: the bytes that differ from their value at construction, by rising address. -/
abbrev Memory := List Host.Cell

/-- What an unlisted address reads as: the byte construction leaves there, the font at 0..79 (glyph G at 5·G)
and zero above (70_reset_and_hazards.md R351; 10_state.md R47, R51). -/
def background (font : Font) (a : Nat) : Byte :=
  if h : a < 80 then
    (font[a / 5]'(by omega))[a % 5]'(by omega)
  else 0

/-- The byte at an address: the last value written there, or the construction value (20_memory.md R81). -/
def Memory.read (font : Font) : Memory → Nat → Byte
  | [], a => background font a
  | c :: rest, a => if c.1 = a then c.2 else Memory.read font rest a

/-- Put a cell in front, unless it holds what an unlisted address reads as. -/
def Memory.consCell (font : Font) (a : Nat) (b : Byte) (rest : Memory) : Memory :=
  if b = background font a then rest else (a, b) :: rest

/-- Write one byte, keeping the canonical form. -/
def Memory.write (font : Font) : Memory → Nat → Byte → Memory
  | [], a, b => Memory.consCell font a b []
  | c :: rest, a, b =>
    if a < c.1 then Memory.consCell font a b (c :: rest)
    else if a = c.1 then Memory.consCell font a b rest
    else c :: Memory.write font rest a b

/-- The `n` bytes from address `a` on, in ascending order (20_memory.md R72). -/
def Memory.readBytes (font : Font) (m : Memory) (a : Nat) : Nat → List Byte
  | 0 => []
  | n + 1 => Memory.read font m a :: Memory.readBytes font m (a + 1) n

/-- Write bytes from address `a` on, in ascending order (20_memory.md R72). -/
def Memory.writeBytes (font : Font) (m : Memory) (a : Nat) : List Byte → Memory
  | [] => m
  | b :: bs => Memory.writeBytes font (Memory.write font m a b) (a + 1) bs

/-- The canonical form of the RAM. -/
abbrev Memory.wf (font : Font) (m : Memory) : Prop :=
  m.Pairwise (fun c d => c.1 < d.1) ∧ ∀ c ∈ m, c.1 < ramSize ∧ c.2 ≠ background font c.1

end Sys2Proof.Machine
end

