-- ==== Sys2Proof/Machine/State.lean ====
section
/-! DEFINITION. The state of the core as plain data: everything 10_state.md gives the machine, the output trace
(60_exceptions.md R320), the parameters (00_scope.md R6) and the inputs of a step; and the state after
construction (10_state.md R51). -/

namespace Sys2Proof.Machine

/-- The framebuffer: 32 rows of 64 pixels; bit `px` of row `py` is FB[px, py], 1 means set (10_state.md R43). -/
abbrev Framebuffer := Vector (BitVec 64) 32

/-- The eight fault kinds with the info each records (60_exceptions.md R300). -/
inductive FaultKind where
  /-- 1: a host load with offset + length > 4096 (R301, R352) -/
  | loadOverflow (offset length : Nat)
  /-- 2: a run start with START ≥ 4096 (R354) -/
  | invalidStartAddress (start : Word)
  /-- 3: pc ≥ 4095 at the fetch check (R302) -/
  | programCounterOutOfRange
  /-- 4: the fetched word matches no opcode (R303) -/
  | illegalInstruction
  /-- 5: an address I + k ≥ 4096; `addr` is the lowest such address (R304; 20_memory.md R74) -/
  | memoryOutOfRange (addr : Nat)
  /-- 6: CALL with SP = 16 (R304; 40_control.md R134) -/
  | stackOverflow
  /-- 7: RET with SP = 0 (R304; 40_control.md R131) -/
  | stackUnderflow
  /-- 8: SKP or SKNP with Vx > 15 (R304; 44_timers_keys.md R250) -/
  | invalidKey (key : Byte)
deriving DecidableEq, Repr

/-- The fault record (10_state.md R49): the kind with its info, the `pc` of the iteration that faulted (none for a
load or a start, which are no iteration) and the instruction word (none before the fetch). -/
structure FaultRecord where
  kind : FaultKind
  pc   : Option Word
  word : Option Word
deriving DecidableEq, Repr

/-- The mode of the core (10_state.md R45). `faulted` holds the fault record (R49, R305). -/
inductive Mode where
  | running
  | keyWait (x : Reg)
  | faulted (record : FaultRecord)
deriving DecidableEq, Repr

/-- An event sent to a port (60_exceptions.md R320): a frame by value (R321), or a tone request (R322). -/
inductive PortEvent where
  | presentFrame (frame : Framebuffer)
  | startTone
  | stopTone
deriving DecidableEq, Repr

/-- The state of the core. -/
structure State where
  /-- V0..VF, `v[15]` is the flag register VF (10_state.md R30, R32) -/
  v           : Vector Byte 16
  /-- the program counter (R34) -/
  pc          : Word
  /-- the index register `I` (R38) -/
  i           : Word
  /-- the stack pointer, the next free slot, 0..16 (R40) -/
  sp          : Fin 17
  /-- the sixteen stack slots (R39) -/
  stack       : Vector Word 16
  /-- the delay timer (R41) -/
  dt          : Byte
  /-- the sound timer (R41) -/
  st          : Byte
  /-- the framebuffer (R43) -/
  fb          : Framebuffer
  /-- the RAM (R44) -/
  mem         : Memory
  /-- the mode, with the fault record (R45, R49) -/
  mode        : Mode
  /-- the pending tick (R46) -/
  tickPending : Bool
  /-- the last tone request the core sent (R42) -/
  toneOn      : Bool
  /-- the output trace, oldest event first (60_exceptions.md R320) -/
  trace       : List PortEvent
  /-- the parameters FONT and VF_WRITE_ORDER (00_scope.md R6); no step changes them -/
  params      : Params
  /-- the model's own: the host has started the run (70_reset_and_hazards.md R352, R354; log 8) -/
  runStarted  : Bool
  /-- the inputs of the current step (60_exceptions.md R324; log 1), sampled anew at the start of every step -/
  pins        : StepInput
  /-- the model's own: the inputs scheduled for the coming steps (log 1) -/
  inputs      : List StepInput
  /-- the model's own: the number of steps sampled so far, the argument of the free inputs (log 1) -/
  inputIndex  : Nat
deriving DecidableEq, Repr

/-- Why a step or a host operation stops. -/
inductive Fault where
  /-- Raised by `step`, `hostLoad` and `hostStart` on a state whose mode is Faulted: the mode is terminal, no step
  leaves it, and the record is surfaced to the caller of the run loop (60_exceptions.md R305, R307). Safe. -/
  | terminated (record : FaultRecord)
deriving DecidableEq, Repr

/-- Why the model gives no meaning. -/
inductive Refusal where
  /-- Raised by an arm of `exec` whose instruction has no meaning yet; no arm raises it now. Safe. -/
  | notModelled (mnemonic : String)
  /-- Raised by `hostLoad` after the run has started: no load is possible then (70_reset_and_hazards.md R352). Safe. -/
  | loadAfterStart
  /-- Raised by `hostStart` after the run has started: to run again the host constructs the machine anew
  (60_exceptions.md R307, 70_reset_and_hazards.md R350). Safe. -/
  | startAfterStart
deriving DecidableEq, Repr

/-- The three outcomes of a step of this machine. -/
abbrev Result := Host.Outcome State Fault Refusal

/-- DESIGN CHOICE (log 1): the inputs before any step has sampled them. -/
def StepInput.idle : StepInput := { tick := false, keyHeld := 0, rnd := 0, keyChoice := 0 }

/-- Construction (70_reset_and_hazards.md R350, R351; 10_state.md R51) with given parameters. -/
def State.construct (p : Params) : State where
  v := Vector.replicate 16 0
  pc := 0
  i := 0
  sp := 0
  stack := Vector.replicate 16 0
  dt := 0
  st := 0
  fb := Vector.replicate 32 0
  mem := []
  mode := .running
  tickPending := false
  toneOn := false
  trace := []
  params := p
  runStarted := false
  pins := StepInput.idle
  inputs := []
  inputIndex := 0

/-- The machine right after construction (the `rst` signal of 60_exceptions.md R324), with the default parameters. -/
def State.reset : State := State.construct defaultParams

/-- The fault record of the state, empty unless the mode is Faulted (10_state.md R49). -/
def State.faultRecord (s : State) : Option FaultRecord :=
  match s.mode with
  | .faulted r => some r
  | .running => none
  | .keyWait _ => none

end Sys2Proof.Machine
end

