-- ==== Sys2Proof/Machine/Flags.lean ====
section
/-! DEFINITION. The flag computations: the values written to VF (10_state.md R32), and the exact results they are
computed beside (41_alu.md R160). -/

namespace Sys2Proof.Machine

/-- A flag is written to VF as 0 or 1 (10_state.md R32). -/
def flagByte (b : Bool) : Byte := if b then 1 else 0

/-- The exact sum of two registers, 0..510 (41_alu.md R160, R168). -/
def exactSum (a b : Byte) : Nat := a.toNat + b.toNat

/-- The carry of `8xy4`: 1 if the exact sum exceeds 255 (41_alu.md R168). -/
def carryFlag (a b : Byte) : Byte := flagByte (decide (exactSum a b > 255))

/-- The no-borrow flag of `a - b`: 1 if a ≥ b (41_alu.md R169, R171). -/
def noBorrowFlag (a b : Byte) : Byte := flagByte (decide (a.toNat ≥ b.toNat))

/-- The flag of SHR: bit 0 before the shift (41_alu.md R170). -/
def shrFlag (a : Byte) : Byte := flagByte (a.getLsbD 0)

/-- The flag of SHL: bit 3 before the shift, not bit 7 (41_alu.md R172). -/
def shlFlag (a : Byte) : Byte := flagByte (a.getLsbD 3)

/-- The flag of DRW: 1 if a set pixel was turned off (43_display.md R232). -/
def collisionFlag (hit : Bool) : Byte := flagByte hit

end Sys2Proof.Machine
end

