-- ==== Sys2Proof/Machine/Operands.lean ====
section
/-! DEFINITION. The operand forms: immediates and targets (30_encoding.md R102), the one data addressing mode
(42_index_memory.md R200) with its range check (20_memory.md R73, R74), glyph addresses, decimal digits. -/

namespace Sys2Proof.Machine

/-- `nnn` zero-extended to 16 bits (30_encoding.md R102; 40_control.md R133). -/
def addrTarget (nnn : Addr12) : Word := nnn.setWidth 16

/-- `nnn + V0` as a 16-bit sum, no 12-bit wrap (40_control.md R139). -/
def offsetTarget (nnn : Addr12) (v0 : Byte) : Word := nnn.setWidth 16 + v0.setWidth 16

/-- The address of the k-th byte of an access, an unbounded integer (42_index_memory.md R200). -/
def effectiveAddr (s : State) (k : Nat) : Nat := s.i.toNat + k

/-- The lowest out-of-range address of an access of `len` bytes at I, if there is one: `max(I, 4096)`
(20_memory.md R74). An access of no bytes has none (43_display.md R232, n = 0). -/
def badAddress (s : State) (len : Nat) : Option Nat :=
  if 0 < len ∧ ramSize < effectiveAddr s len then some (max s.i.toNat ramSize) else none

/-- The base address of the font glyph of a register value, `Vx * 5`, the full byte (42_index_memory.md R203). -/
def glyphAddress (b : Byte) : Word := BitVec.ofNat 16 (b.toNat * 5)

/-- The decimal digits of a byte: hundreds, tens, units (42_index_memory.md R204). -/
def bcdDigits (b : Byte) : List Byte :=
  [BitVec.ofNat 8 (b.toNat / 100), BitVec.ofNat 8 (b.toNat / 10 % 10), BitVec.ofNat 8 (b.toNat % 10)]

/-- The keys in the order the key-wait port tries them, beginning with its preferred one (log 15). -/
def keyOrder (choice : Key) : List Key := (List.finRange 16).map fun j => choice + j

/-- `draw HeldKey()`: a held key if some key is held (44_timers_keys.md R255). Any held key can be drawn: the
preferred one is, whenever it is held (log 15). -/
def drawHeldKey (inp : StepInput) : Option Key :=
  (keyOrder inp.keyChoice).find? fun k => inp.keyHeld.getLsbD k.val

/-- The mask of a sprite byte drawn at column `x0`: bit 7 of the byte is the leftmost pixel, and the columns wrap
modulo 64 (43_display.md R230, R233; log 14). -/
def spriteMask (b : Byte) (x0 : Nat) : BitVec 64 := (b.reverse.setWidth 64).rotateLeft (x0 % 64)

end Sys2Proof.Machine
end

