-- ==== Sys2Proof/Machine/Ops.lean ====
section
/-! DEFINITION. The named operations over registers, RAM, framebuffer, ports and mode that the meanings share, and
fault entry (60_exceptions.md R305). The core has no return from a fault (R307). -/

namespace Sys2Proof.Machine

/-- `V[x]` (00_scope.md R10). -/
def State.readReg (s : State) (x : Reg) : Byte := s.v[x]

/-- `V[x] <- b` (00_scope.md R10). No register is hard-wired (10_state.md R30). -/
def State.writeReg (s : State) (x : Reg) (b : Byte) : State := { s with v := s.v.set x b }

/-- `pc <- pc + 2` (10_state.md R35). -/
def State.advance (s : State) : State := { s with pc := s.pc + 2 }

/-- `pc <- target` (10_state.md R35). -/
def State.jumpTo (s : State) (target : Word) : State := { s with pc := target }

/-- A skip: `pc + 4` if the condition holds, else `pc + 2`; the skipped word is not read (40_control.md R130). -/
def State.skipWhen (s : State) (cond : Bool) : State := { s with pc := s.pc + if cond then 4 else 2 }

/-- `I <- w`. -/
def State.writeI (s : State) (w : Word) : State := { s with i := w }

/-- The byte of RAM at an address (00_scope.md R10 `MemRead`, its range check made before). -/
def State.readByte (s : State) (a : Nat) : Byte := Memory.read s.params.font s.mem a

/-- The bytes of RAM from an address on. -/
def State.readBytes (s : State) (a n : Nat) : List Byte := Memory.readBytes s.params.font s.mem a n

/-- Store bytes from an address on (00_scope.md R10 `MemWrite`, its range check made before). -/
def State.storeBytes (s : State) (a : Nat) (bs : List Byte) : State :=
  { s with mem := Memory.writeBytes s.params.font s.mem a bs }

/-- V0..Vx in order, the bytes `Fx55` stores (42_index_memory.md R205). -/
def State.regsUpTo (s : State) (x : Reg) : List Byte := s.v.toList.take (x.val + 1)

/-- V0..Vx loaded from RAM at `a`, the higher registers kept (42_index_memory.md R206). -/
def State.loadRegsUpTo (s : State) (x : Reg) (a : Nat) : State :=
  { s with v := Vector.ofFn fun r : Reg => if r.val ≤ x.val then s.readByte (a + r.val) else s.v[r] }

/-- `port <event>`: append to the output trace (60_exceptions.md R320). -/
def State.emit (s : State) (e : PortEvent) : State := { s with trace := s.trace ++ [e] }

/-- `port presentFrame(FB)`: a snapshot of the framebuffer at this moment (60_exceptions.md R321). -/
def State.presentFrame (s : State) : State := s.emit (.presentFrame s.fb)

/-- `port startTone(); toneOn <- 1` (44_timers_keys.md R257; 10_state.md R42). -/
def State.startTone (s : State) : State := { s.emit .startTone with toneOn := true }

/-- The flagged write (41_alu.md R161): the result to Vx and the flag to VF, in the order VF_WRITE_ORDER says. -/
def State.writeFlagged (s : State) (x : Reg) (result flag : Byte) : State :=
  match s.params.vfWriteOrder with
  | .resultLast => (s.writeReg flagReg flag).writeReg x result
  | .flagLast => (s.writeReg x result).writeReg flagReg flag

/-- Fault entry (60_exceptions.md R305, R306): write the fault record and set the mode to Faulted. Nothing else
changes; `pc` stays at the faulting instruction. `word` is the instruction word, if the fault came after the fetch. -/
def State.raise (s : State) (kind : FaultKind) (word : Option Word) : State :=
  { s with mode := .faulted { kind := kind, pc := some s.pc, word := word } }

/-- A fault of a load or a start, which is no iteration, so that the record has no `pc` (10_state.md R49; log 7). -/
def State.raiseAtHost (s : State) (kind : FaultKind) : State :=
  { s with mode := .faulted { kind := kind, pc := none, word := none } }

/-- An instruction that accesses `len` bytes at I: every address is checked before anything is written, and a bad one
raises MemoryOutOfRange for the lowest (20_memory.md R74). `done` is the state if all are in range. -/
def State.accessing (s : State) (len : Nat) (instr : Instr) (done : State) : Result :=
  match badAddress s len with
  | some a => .next (s.raise (.memoryOutOfRange a) (some (encode instr)))
  | none => .next done

/-- A key-skip: a key number above 15 raises InvalidKey (44_timers_keys.md R250); else skip on `cond`. -/
def State.keySkip (s : State) (key : Byte) (instr : Instr) (cond : Bool) : Result :=
  if key.toNat > 15 then .next (s.raise (.invalidKey key) (some (encode instr)))
  else .next (s.skipWhen cond)

/-- The answer of `port isKeyHeld(k)` in this step (60_exceptions.md R320, R324 `key_held`). -/
def State.isKeyHeld (s : State) (key : Byte) : Bool := s.pins.keyHeld.getLsbD key.toNat

/-- FB[px, py] (10_state.md R43). -/
def pixel (fb : Framebuffer) (px : Fin 64) (py : Fin 32) : Bool := fb[py].getLsbD px.val

/-- The all-zero framebuffer of CLS (43_display.md R231). -/
def clearFramebuffer : Framebuffer := Vector.replicate 32 0

/-- Draw sprite rows from line `y0` down, wrapping modulo 32: each row is XORed with its mask, and the flag says
whether a set pixel was turned off (43_display.md R232, R233). -/
def drawRows (fb : Framebuffer) (x0 y0 : Nat) : List Byte → Framebuffer × Bool
  | [] => (fb, false)
  | b :: bs =>
    let line : Fin 32 := ⟨y0 % 32, Nat.mod_lt _ (by decide)⟩
    let mask := spriteMask b x0
    let below := drawRows (fb.set line (fb[line] ^^^ mask)) x0 (y0 + 1) bs
    (below.1, decide (fb[line] &&& mask ≠ 0) || below.2)

end Sys2Proof.Machine
end

