-- ==== Sys2Proof/Machine/Alu.lean ====
section
/-! DEFINITION. The meanings of the register and ALU instructions (41_alu.md). -/

namespace Sys2Proof.Machine

/-- `6xkk` LD Vx, kk (41_alu.md R162). -/
def execLdImm (x : Reg) (kk : Byte) (s : State) : Result := .next (s.writeReg x kk).advance

/-- `7xkk` ADD Vx, kk (41_alu.md R163): no flag. -/
def execAddImm (x : Reg) (kk : Byte) (s : State) : Result :=
  .next (s.writeReg x (BitVec.ofNat 8 (exactSum (s.readReg x) kk))).advance

/-- `8xy0` LD Vx, Vy (41_alu.md R164). -/
def execLdReg (x y : Reg) (s : State) : Result := .next (s.writeReg x (s.readReg y)).advance

/-- `8xy1` OR Vx, Vy (41_alu.md R165): VF is not reset (log 17). -/
def execOrReg (x y : Reg) (s : State) : Result := .next (s.writeReg x (s.readReg x ||| s.readReg y)).advance

/-- `8xy2` AND Vx, Vy (41_alu.md R166): VF is not reset (log 17). -/
def execAndReg (x y : Reg) (s : State) : Result := .next (s.writeReg x (s.readReg x &&& s.readReg y)).advance

/-- `8xy3` XOR Vx, Vy (41_alu.md R167): VF is not reset (log 17). -/
def execXorReg (x y : Reg) (s : State) : Result := .next (s.writeReg x (s.readReg x ^^^ s.readReg y)).advance

/-- `8xy4` ADD Vx, Vy (41_alu.md R168). -/
def execAddReg (x y : Reg) (s : State) : Result :=
  let a := s.readReg x
  let b := s.readReg y
  .next (s.writeFlagged x (BitVec.ofNat 8 (exactSum a b)) (carryFlag a b)).advance

/-- `8xy5` SUB Vx, Vy (41_alu.md R169); the difference is modulo 256. -/
def execSubReg (x y : Reg) (s : State) : Result :=
  let a := s.readReg x
  let b := s.readReg y
  .next (s.writeFlagged x (a - b) (noBorrowFlag a b)).advance

/-- `8xy6` SHR Vx (41_alu.md R170): a logical shift; `y` is ignored (log 18). -/
def execShr (x _y : Reg) (s : State) : Result :=
  let a := s.readReg x
  .next (s.writeFlagged x (a >>> 1) (shrFlag a)).advance

/-- `8xy7` SUBN Vx, Vy (41_alu.md R171); the difference is modulo 256. -/
def execSubn (x y : Reg) (s : State) : Result :=
  let a := s.readReg x
  let b := s.readReg y
  .next (s.writeFlagged x (b - a) (noBorrowFlag b a)).advance

/-- `8xyE` SHL Vx (41_alu.md R172): the flag is bit 3; `y` is ignored (log 18). -/
def execShl (x _y : Reg) (s : State) : Result :=
  let a := s.readReg x
  .next (s.writeFlagged x (a <<< 1) (shlFlag a)).advance

/-- `Cxkk` RND Vx, kk (41_alu.md R173): the random byte is an input of the step. -/
def execRnd (x : Reg) (kk : Byte) (s : State) : Result := .next (s.writeReg x (s.pins.rnd &&& kk)).advance

end Sys2Proof.Machine
end

