-- ==== Sys2Proof/Machine/Control.lean ====
section
/-! DEFINITION. The meanings of the control transfer instructions (40_control.md). -/

namespace Sys2Proof.Machine

/-- `00EE` RET (40_control.md R131): pop into pc, plus 2; StackUnderflow when SP = 0. -/
def execRet (s : State) : Result :=
  if h : s.sp.val = 0 then .next (s.raise .stackUnderflow (some (encode .ret)))
  else
    .next { s with
      sp := ⟨s.sp.val - 1, by omega⟩
      pc := s.stack[s.sp.val - 1]'(by omega) + 2 }

/-- `0nnn` SYS (40_control.md R132): no operation. -/
def execSys (_nnn : Addr12) (s : State) : Result := .next s.advance

/-- `1nnn` JP (40_control.md R133). -/
def execJp (nnn : Addr12) (s : State) : Result := .next (s.jumpTo (addrTarget nnn))

/-- `2nnn` CALL (40_control.md R134): push the CALL's own address; StackOverflow when SP = 16. -/
def execCall (nnn : Addr12) (s : State) : Result :=
  if h : s.sp.val = 16 then .next (s.raise .stackOverflow (some (encode (.call nnn))))
  else
    .next { s with
      stack := s.stack.set s.sp.val s.pc (by omega)
      sp := ⟨s.sp.val + 1, by omega⟩
      pc := addrTarget nnn }

/-- `3xkk` SE Vx, kk (40_control.md R135). -/
def execSeImm (x : Reg) (kk : Byte) (s : State) : Result := .next (s.skipWhen (s.readReg x == kk))

/-- `4xkk` SNE Vx, kk (40_control.md R136). -/
def execSneImm (x : Reg) (kk : Byte) (s : State) : Result := .next (s.skipWhen (s.readReg x != kk))

/-- `5xy0` SE Vx, Vy (40_control.md R137). -/
def execSeReg (x y : Reg) (s : State) : Result := .next (s.skipWhen (s.readReg x == s.readReg y))

/-- `9xy0` SNE Vx, Vy (40_control.md R138). -/
def execSneReg (x y : Reg) (s : State) : Result := .next (s.skipWhen (s.readReg x != s.readReg y))

/-- `Bnnn` JP V0, nnn (40_control.md R139). -/
def execJpV0 (nnn : Addr12) (s : State) : Result := .next (s.jumpTo (offsetTarget nnn (s.readReg 0)))

end Sys2Proof.Machine
end

