-- ==== Sys2Proof/Machine/Display.lean ====
section
/-! DEFINITION. The meanings of the display instructions (43_display.md). -/

namespace Sys2Proof.Machine

/-- `00E0` CLS (43_display.md R231): clear the framebuffer and send it. -/
def execCls (s : State) : Result :=
  .next { s with fb := clearFramebuffer }.presentFrame.advance

/-- `Dxyn` DRW Vx, Vy, n (43_display.md R232): XOR the sprite at I, VF = collision, send the frame. The coordinates
are read before VF is written (00_scope.md R11). -/
def execDrw (x y : Reg) (n : Nibble) (s : State) : Result :=
  let drawn := drawRows s.fb (s.readReg x).toNat (s.readReg y).toNat (s.readBytes s.i.toNat n.toNat)
  s.accessing n.toNat (.drw x y n)
    ({ s with fb := drawn.1 }.writeReg flagReg (collisionFlag drawn.2)).presentFrame.advance

end Sys2Proof.Machine
end

