-- ==== Sys2Proof/Machine/IndexMemory.lean ====
section
/-! DEFINITION. The meanings of the index register and memory instructions (42_index_memory.md). -/

namespace Sys2Proof.Machine

/-- `Annn` LD I, nnn (42_index_memory.md R201). -/
def execLdI (nnn : Addr12) (s : State) : Result := .next (s.writeI (addrTarget nnn)).advance

/-- `Fx1E` ADD I, Vx (42_index_memory.md R202): modulo 2^16 (log 23), no flag. -/
def execAddI (x : Reg) (s : State) : Result :=
  .next (s.writeI (BitVec.ofNat 16 (s.i.toNat + (s.readReg x).toNat))).advance

/-- `Fx29` LD F, Vx (42_index_memory.md R203). -/
def execLdF (x : Reg) (s : State) : Result := .next (s.writeI (glyphAddress (s.readReg x))).advance

/-- `Fx33` LD B, Vx (42_index_memory.md R204). -/
def execLdB (x : Reg) (s : State) : Result :=
  s.accessing 3 (.ldB x) (s.storeBytes s.i.toNat (bcdDigits (s.readReg x))).advance

/-- `Fx55` LD [I], Vx (42_index_memory.md R205): I is unchanged (log 16). -/
def execStoreRegs (x : Reg) (s : State) : Result :=
  s.accessing (x.val + 1) (.storeRegs x) (s.storeBytes s.i.toNat (s.regsUpTo x)).advance

/-- `Fx65` LD Vx, [I] (42_index_memory.md R206): I is unchanged (log 16). -/
def execLoadRegs (x : Reg) (s : State) : Result :=
  s.accessing (x.val + 1) (.loadRegs x) (s.loadRegsUpTo x s.i.toNat).advance

end Sys2Proof.Machine
end

