-- ==== Sys2Proof/Machine/TimersKeys.lean ====
section
/-! DEFINITION. The meanings of the timer and key instructions (44_timers_keys.md). -/

namespace Sys2Proof.Machine

/-- `Ex9E` SKP Vx (44_timers_keys.md R251). -/
def execSkp (x : Reg) (s : State) : Result :=
  s.keySkip (s.readReg x) (.skp x) (s.isKeyHeld (s.readReg x))

/-- `ExA1` SKNP Vx (44_timers_keys.md R252). -/
def execSknp (x : Reg) (s : State) : Result :=
  s.keySkip (s.readReg x) (.sknp x) (!s.isKeyHeld (s.readReg x))

/-- `Fx07` LD Vx, DT (44_timers_keys.md R253). -/
def execLdVxDt (x : Reg) (s : State) : Result := .next (s.writeReg x s.dt).advance

/-- `Fx0A` LD Vx, K (44_timers_keys.md R254): enter KeyWait(x); pc stays at this instruction. -/
def execLdVxK (x : Reg) (s : State) : Result := .next { s with mode := .keyWait x }

/-- `Fx15` LD DT, Vx (44_timers_keys.md R256). -/
def execLdDtVx (x : Reg) (s : State) : Result := .next { s with dt := s.readReg x }.advance

/-- `Fx18` LD ST, Vx (44_timers_keys.md R257): a nonzero value starts the tone, zero sends no request (log 28). -/
def execLdStVx (x : Reg) (s : State) : Result :=
  let set : State := { s with st := s.readReg x }
  .next (if s.readReg x = 0 then set else set.startTone).advance

end Sys2Proof.Machine
end

