-- ==== Sys2Proof/Machine/Cycle.lean ====
section
/-! DEFINITION. The parts of one step: sampling the inputs, the timer service, the fetch, the iteration of a
Running core (70_reset_and_hazards.md R358, R361) and the key-wait step (44_timers_keys.md R255). -/

namespace Sys2Proof.Machine

/-- The inputs of the coming step: the next scheduled ones, or the free ones (log 1). -/
def State.nextInput (s : State) : StepInput :=
  match s.inputs with
  | inp :: _ => inp
  | [] => Config.freeInput s.inputIndex

/-- Sample the inputs of a step onto the pins; an elapsed timer-cadence period sets the pending tick, which
saturates (10_state.md R46; 70_reset_and_hazards.md R362; log 2). -/
def State.sampleInputs (s : State) : State :=
  { s with
    pins := s.nextInput
    inputs := s.inputs.tail
    inputIndex := s.inputIndex + 1
    tickPending := s.tickPending || s.nextInput.tick }

/-- A timer after one serviced tick: one lower, never below zero (70_reset_and_hazards.md R361; 10_state.md R41). -/
def timerAfterTick (t : Byte) : Byte := BitVec.ofNat 8 (t.toNat - 1)

/-- Whether this timer service takes ST from 1 to 0, which requests `stopTone` (70_reset_and_hazards.md R361). -/
def State.stopsTone (s : State) : Bool := s.tickPending && s.st == 1

/-- Step 2 of a Running iteration, the timer service (70_reset_and_hazards.md R361). -/
def State.serviceTick (s : State) : State :=
  { s with
    tickPending := false
    dt := if s.tickPending then timerAfterTick s.dt else s.dt
    st := if s.tickPending then timerAfterTick s.st else s.st
    toneOn := if s.stopsTone then false else s.toneOn
    trace := if s.stopsTone then s.trace ++ [.stopTone] else s.trace }

/-- Steps 1 and 2 of a Running iteration: step 1 is pacing and changes no architectural state
(70_reset_and_hazards.md R360), step 2 services the tick. -/
def State.beginIteration (s : State) : State := s.sampleInputs.serviceTick

/-- The word at `pc`, big-endian (20_memory.md R71). -/
def State.fetchWord (s : State) : Word := wordOfBytes (s.readByte s.pc.toNat) (s.readByte (s.pc.toNat + 1))

/-- Steps 3 to 5 of a Running iteration: the pc check, the fetch, the decode, the execution
(70_reset_and_hazards.md R358; 60_exceptions.md R308). -/
def State.fetchAndExecute (s : State) : Result :=
  if s.pc.toNat ≥ ramSize - 1 then .next (s.raise .programCounterOutOfRange none)
  else
    match decodeWord s.fetchWord with
    | .ok instr => exec instr s
    | .error _ => .next (s.raise .illegalInstruction (some s.fetchWord))

/-- The step of a core that waits for a key (44_timers_keys.md R255), after its inputs are sampled: a held key ends
the wait, else nothing changes. No timer service, no fetch. -/
def State.keyWaitStep (s : State) (x : Reg) : State :=
  match drawHeldKey s.pins with
  | some k => { (s.writeReg x (BitVec.ofNat 8 k.val)).advance with mode := .running }
  | none => s

/-- The state whose next step runs the given word: the mode is Running and the two bytes are stored at `pc`, or, from
a `pc` that no fetch can use, at the conventional entry point (log 9). -/
def State.placeWord (s : State) (w : Word) : State :=
  let pc := if s.pc.toNat ≥ ramSize - 1 then BitVec.ofNat 16 conventionalOffset else s.pc
  { s with pc := pc, mode := .running }.storeBytes pc.toNat [highByte w, lowByte w]

end Sys2Proof.Machine
end

