-- ==== Sys2Proof/Machine/Step.lean ====
section
/-! DEFINITION. One step of the core (00_scope.md R12; 70_reset_and_hazards.md R358): an iteration in mode Running, a
key-wait step in mode KeyWait, none in mode Faulted. -/

namespace Sys2Proof.Machine

/-- One step. A Faulted core has no step; its record goes to the caller (60_exceptions.md R305, R307). -/
def step (s : State) : Host.Outcome State Fault Refusal :=
  match s.mode with
  | .running => s.beginIteration.fetchAndExecute
  | .keyWait x => .next (s.sampleInputs.keyWaitStep x)
  | .faulted record => .fault (.terminated record)

/-- The state with the instruction of a table word stored where `step` fetches next. -/
def State.withFetchWord (s : State) (nbits w : Nat) : State := s.placeWord (tableWord nbits w)

end Sys2Proof.Machine
end

