-- ==== Sys2Proof/Machine/HostPort.lean ====
section
/-! DEFINITION. What the host does before the run: load (70_reset_and_hazards.md R352) and start (R354). They are not
steps of the core; after the start the host only supplies inputs (60_exceptions.md R323). -/

namespace Sys2Proof.Machine

/-- `load(bytes, destinationOffset)` (70_reset_and_hazards.md R352; 60_exceptions.md R301): LoadOverflow if it does not
fit, else the bytes are copied into RAM and all other state is untouched. Refused after the run has started (log 8). -/
def hostLoad (bytes : List Byte) (offset : Nat) (s : State) : Result :=
  match s.faultRecord with
  | some record => .fault (.terminated record)
  | none =>
    if s.runStarted then .refused .loadAfterStart
    else if offset + bytes.length > ramSize then .next (s.raiseAtHost (.loadOverflow offset bytes.length))
    else .next (s.storeBytes offset bytes)

/-- The start of the run at `start` (70_reset_and_hazards.md R354): InvalidStartAddress if it lies outside memory, else
`pc <- START` and the mode is Running. Refused after the run has started (log 8). -/
def hostStart (start : Word) (s : State) : Result :=
  match s.faultRecord with
  | some record => .fault (.terminated record)
  | none =>
    if s.runStarted then .refused .startAfterStart
    else if start.toNat ≥ ramSize then .next (s.raiseAtHost (.invalidStartAddress start))
    else .next { s with pc := start, mode := .running, runStarted := true }

/-- The entry point: the host's, or the load offset if it gives none (70_reset_and_hazards.md R354). -/
def entryPoint (start : Option Word) (offset : Nat) : Word := start.getD (BitVec.ofNat 16 offset)

/-- Load one image and start the run, in the order of 70_reset_and_hazards.md R355. A load that overflows ends it: the
start is never reached (60_exceptions.md R301, R308). -/
def hostBoot (bytes : List Byte) (offset : Nat) (start : Option Word) (s : State) : Result :=
  match hostLoad bytes offset s with
  | .next t => hostStart (entryPoint start offset) t
  | .fault r => .fault r
  | .refused r => .refused r

end Sys2Proof.Machine
end

