-- ==== Sys2Proof/Machine/Signals.lean ====
section
/-! DEFINITION. What the outside sees of the state: the fault codes and info (60_exceptions.md R300), the bytes of a
frame (R321) and the output signals of R324, each in its own width. -/

namespace Sys2Proof.Machine

/-- The code of a fault kind (60_exceptions.md R300), 4 bits wide (R324). -/
def FaultKind.code : FaultKind → BitVec 4
  | .loadOverflow _ _ => 1
  | .invalidStartAddress _ => 2
  | .programCounterOutOfRange => 3
  | .illegalInstruction => 4
  | .memoryOutOfRange _ => 5
  | .stackOverflow => 6
  | .stackUnderflow => 7
  | .invalidKey _ => 8

/-- The info of a fault kind beyond `pc` and word, as the record holds it (60_exceptions.md R300; 10_state.md R49). -/
def FaultKind.info : FaultKind → List Nat
  | .loadOverflow offset length => [offset, length]
  | .invalidStartAddress start => [start.toNat]
  | .programCounterOutOfRange => []
  | .illegalInstruction => []
  | .memoryOutOfRange addr => [addr]
  | .stackOverflow => []
  | .stackUnderflow => []
  | .invalidKey key => [key.toNat]

/-- What the 16 bits of `fault_info` carry of a fault kind: its info where that is one number, which fits
(60_exceptions.md R300, R324). DESIGN CHOICE (log 36): no stated value for LoadOverflow, whose info is two numbers, nor
for a kind with no info beyond `pc` and word. -/
def FaultKind.infoWire (kind : FaultKind) : Option Word :=
  match kind.info with
  | [number] => some (BitVec.ofNat 16 number)
  | _ => none

/-- The numbers of a fault record, which its free signals may depend on (log 36). -/
def FaultRecord.numbers (r : FaultRecord) : List Nat := r.kind.code.toNat :: r.kind.info

/-- The 2048 bytes of a frame in row-major order, 1 for a set pixel and 0 for a clear one (60_exceptions.md R321). -/
def frameBytes (fb : Framebuffer) : List Byte :=
  (List.finRange 32).flatMap fun py => (List.finRange 64).map fun px => if pixel fb px py then 1 else 0

/-- `key_wait`: high while the mode is KeyWait (60_exceptions.md R324). -/
def State.keyWaitSignal (s : State) : Bool :=
  match s.mode with
  | .keyWait _ => true
  | .running => false
  | .faulted _ => false

/-- `fault`: stays high in Faulted (60_exceptions.md R324). -/
def State.faultSignal (s : State) : Bool := s.faultRecord.isSome

/-- A 16-bit fault signal (60_exceptions.md R324): what the fault record gives for it; a free value where it gives
nothing or `fault` is low (log 36). -/
def State.faultWire (s : State) (wire : FaultWire) (given : FaultRecord → Option Word) : Word :=
  match s.faultRecord with
  | some r => (given r).getD (Config.freeFaultWire wire s.inputIndex r.numbers)
  | none => Config.freeFaultWire wire s.inputIndex []

/-- `fault_code`: the code of the fault (60_exceptions.md R300, R324); a free value while `fault` is low (log 36). -/
def State.faultCode (s : State) : BitVec 4 :=
  match s.faultRecord with
  | some r => r.kind.code
  | none => Config.freeFaultCode s.inputIndex

/-- `fault_pc`: the `pc` of the iteration that faulted (60_exceptions.md R324; 10_state.md R49). -/
def State.faultPc (s : State) : Word := s.faultWire .pc fun r => r.pc

/-- `fault_word`: the instruction word, if the fault came after the fetch (60_exceptions.md R324; 10_state.md R49). -/
def State.faultWord (s : State) : Word := s.faultWire .word fun r => r.word

/-- `fault_info`: the info of the kind, if it is one number (60_exceptions.md R324; log 36). -/
def State.faultInfo (s : State) : Word := s.faultWire .info fun r => r.kind.infoWire

end Sys2Proof.Machine
end

