-- ==== Sys2Proof/Safety.lean ====
section
/-! DEFINITION. What claims about runs are said in: the safe states and the observed end of a run
(60_exceptions.md R307; 70_reset_and_hazards.md R367), the invariant of the machine, and what a state leaves
unchanged of another. -/

namespace Sys2Proof.Machine

/-- A safe state: no fault has ended the run (60_exceptions.md R307 "a run that reaches it has failed"). -/
def State.safe (s : State) : Bool := s.faultRecord.isNone

/-- The core is Running at a JP to its own address (70_reset_and_hazards.md R367). -/
def State.atSelfJump (s : State) : Bool :=
  match s.mode, decodeWord s.fetchWord with
  | .running, .ok (.jp nnn) => decide (s.pc.toNat < ramSize - 1) && addrTarget nnn == s.pc
  | _, _ => false

/-- Where a run is observed: at a fault or at a self-jump (70_reset_and_hazards.md R367). The core does not stop at a
self-jump. -/
def State.runObserved (s : State) : Bool := s.faultSignal || s.atSelfJump

/-- What an event makes of the tone request: on after `startTone`, off after `stopTone`, else as before. -/
def toneAfter (on : Bool) : PortEvent → Bool
  | .startTone => true
  | .stopTone => false
  | .presentFrame _ => on

/-- The last tone request of a trace, off if there was none (10_state.md R42). -/
def lastToneRequest (trace : List PortEvent) : Bool := trace.foldl toneAfter false

/-- The invariant that every step keeps from construction on. -/
structure State.Inv (s : State) : Prop where
  /-- the RAM is in canonical form, inside 4096 bytes (20_memory.md R70) -/
  memory : Memory.wf s.params.font s.mem
  /-- `pc` is at most 0x10FE, so that it never wraps (10_state.md R36) -/
  pcBound : s.pc.toNat ≤ 0x10FE
  /-- a waiting core stands at an `Fx0A` it has fetched (44_timers_keys.md R254) -/
  waitPc : s.keyWaitSignal = true → s.pc.toNat ≤ 4094
  /-- every pushed value was the address of an executing instruction (10_state.md R36) -/
  returns : ∀ j : Fin 16, j.val < s.sp.val → s.stack[j].toNat ≤ 4094
  /-- while the sound timer runs, the tone is on (44_timers_keys.md R257; 70_reset_and_hazards.md R361) -/
  toneWhileSt : s.st ≠ 0 → s.toneOn = true
  /-- `toneOn` is the last tone request the core sent (10_state.md R42) -/
  toneRecorded : s.toneOn = lastToneRequest s.trace

/-- Every byte of RAM reads as before. -/
def SameMemory (s t : State) : Prop := ∀ a, t.readByte a = s.readByte a

/-- Every byte of RAM outside the `len` bytes from `lo` on reads as before. -/
def SameMemoryOutside (lo len : Nat) (s t : State) : Prop :=
  ∀ a, a < lo ∨ lo + len ≤ a → t.readByte a = s.readByte a

/-- Every general register outside `rs` is as before. -/
def SameRegsExcept (rs : List Reg) (s t : State) : Prop := ∀ r, r ∉ rs → t.readReg r = s.readReg r

/-- Nothing but registers in `rs` and `pc` differs: not RAM, I, the stack, SP, the timers, the framebuffer, the mode,
the tick, the tone, the trace, nor the model's own fields. -/
def OnlyRegsAndPc (rs : List Reg) (s t : State) : Prop :=
  SameRegsExcept rs s t ∧ SameMemory s t ∧ t = { s with v := t.v, pc := t.pc }

/-- The sprite of DRW as the rules give it: the pixel (px, py) is a set bit of the sprite drawn at (x0, y0) if for some row
and column the byte at I + row has bit 7 - column set and the position wraps to it (43_display.md R230, R232). The bit
order is the spec's decision D16 (log 14). -/
def spriteCovers (s : State) (x0 y0 n : Nat) (px : Fin 64) (py : Fin 32) : Prop :=
  ∃ row col : Nat, row < n ∧ col < 8 ∧ (s.readByte (effectiveAddr s row)).getLsbD (7 - col) = true ∧
    px.val = (x0 + col) % 64 ∧ py.val = (y0 + row) % 32

/-- The registers an instruction may write, the table of 10_state.md R31. -/
def registersWritten : Instr → List Reg
  | .ldImm x _ | .addImm x _ | .ldReg x _ | .orReg x _ | .andReg x _ | .xorReg x _ | .rnd x _ | .ldVxDt x => [x]
  | .addReg x _ | .subReg x _ | .shr x _ | .subn x _ | .shl x _ => [x, 15]
  | .drw _ _ _ => [15]
  | .loadRegs x => (List.finRange 16).filter fun r => r ≤ x
  | .ldVxK _  -- writes Vx when the wait ends (44_timers_keys.md R255), not in its own step
  | .cls | .ret | .sys _ | .jp _ | .call _ | .seImm _ _ | .sneImm _ _ | .seReg _ _ | .sneReg _ _ | .ldI _ | .jpV0 _
  | .skp _ | .sknp _ | .ldDtVx _ | .ldStVx _ | .addI _ | .ldF _ | .ldB _ | .storeRegs _ => []

end Sys2Proof.Machine
end

