-- ==== Sys2Proof/Certificates/Slice0/Obligations.lean ====
section
/-! DEFINITION. The statements for the provers. Each docstring names the rule of spec/ it formalises. A statement
that rests on a decision the spec marks as its own, or on the model's choice, says so. Wherever a statement has an
instruction, a step or a host operation raise a fault, that the Faulted state is the NEXT state is the model's reading
of 60_exceptions.md R305 (log 6, DEDUCED). -/

open Sys2Proof Sys2Proof.Machine

/-! ### Encoding -/

/-- 30_encoding.md R101, R104, R105: decoding the word of a well-formed instruction gives that instruction, with
every operand at every value. -/
def Obligations.DecodeEncodeAgree : Prop :=
  ∀ i : Instr, i.wf = true → decodeWord (encode i) = .ok i

/-- 30_encoding.md R104, R105: each legal word stands for one well-formed instruction, whose word it is, so no bit of
a word is dropped and no two words decode alike. -/
def Obligations.LegalWordIsTheEncoding : Prop :=
  ∀ (w : Word) (i : Instr), decodeWord w = .ok i → i.wf = true ∧ encode i = w

/-- 30_encoding.md R106 (its list of classes, not its counts): a word is refused exactly if it is of one of the five
illegal classes. -/
def Obligations.IllegalWordsAreTheFiveClasses : Prop :=
  ∀ w : Word,
    (∃ e, decodeWord w = .error e) ↔
      (w.toNat / 4096 = 0x5 ∧ w.toNat % 16 ≠ 0) ∨
      (w.toNat / 4096 = 0x8 ∧ w.toNat % 16 ∈ [0x8, 0x9, 0xA, 0xB, 0xC, 0xD, 0xF]) ∨
      (w.toNat / 4096 = 0x9 ∧ w.toNat % 16 ≠ 0) ∨
      (w.toNat / 4096 = 0xE ∧ w.toNat % 256 ∉ [0x9E, 0xA1]) ∨
      (w.toNat / 4096 = 0xF ∧ w.toNat % 256 ∉ [0x07, 0x0A, 0x15, 0x18, 0x1E, 0x29, 0x33, 0x55, 0x65])

/-- 95_test_vectors.md section 2.1, its decode vectors: one word per family and the precedence of CLS and RET. -/
def Obligations.DecodeVectors : Prop :=
  decodeWord 0x00E0#16 = .ok .cls ∧
  decodeWord 0x00EE#16 = .ok .ret ∧
  decodeWord 0x0000#16 = .ok (.sys 0x000#12) ∧
  decodeWord 0x00E1#16 = .ok (.sys 0x0E1#12) ∧
  decodeWord 0x5120#16 = .ok (.seReg 1 2) ∧
  decodeWord 0x8156#16 = .ok (.shr 1 5) ∧
  decodeWord 0x81FE#16 = .ok (.shl 1 15) ∧
  decodeWord 0xF00A#16 = .ok (.ldVxK 0) ∧
  decodeWord 0xD000#16 = .ok (.drw 0 0 0#4) ∧
  decodeWord 0xA300#16 = .ok (.ldI 0x300#12) ∧
  decodeWord 0x8128#16 = .error (.illegalAlu 0x8128#16) ∧
  decodeWord 0xFFFF#16 = .error (.illegalMisc 0xFFFF#16)

/-! ### The iteration, the timers, the faults -/

/-- 20_memory.md R71: the word fetched is big-endian. -/
def Obligations.FetchIsBigEndian : Prop :=
  ∀ s : State,
    s.fetchWord.toNat = 256 * (s.readByte s.pc.toNat).toNat + (s.readByte (s.pc.toNat + 1)).toNat

/-- 70_reset_and_hazards.md R358: what one step is in each mode. In Running, the inputs are sampled and the tick
is serviced first (`b`), then come the pc check, the fetch and the decode, then the decoded instruction runs on that
very state: `exec` itself moves `pc`, and `step` adds nothing after it. The model's own: the inputs are sampled at the
start of every step (log 1, DESIGN CHOICE), in KeyWait too (log 2, DEDUCED), and a step from Faulted, which the rule
does not have, answers `.fault (.terminated r)` (log 6, DEDUCED). -/
def Obligations.StepRunsTheDecodedInstruction : Prop :=
  ∀ s : State,
    let b := s.sampleInputs.serviceTick
    (s.mode = .running →
      (s.pc.toNat ≥ 4095 →
        step s = .next { b with mode := .faulted ⟨.programCounterOutOfRange, some s.pc, none⟩ }) ∧
      (s.pc.toNat < 4095 → ∀ i, decodeWord s.fetchWord = .ok i → step s = exec i b) ∧
      (s.pc.toNat < 4095 → ∀ e, decodeWord s.fetchWord = .error e →
        step s = .next { b with mode := .faulted ⟨.illegalInstruction, some s.pc, some s.fetchWord⟩ })) ∧
    (∀ x, s.mode = .keyWait x → step s = .next (s.sampleInputs.keyWaitStep x)) ∧
    (∀ r, s.mode = .faulted r → step s = .fault (.terminated r))

/-- 70_reset_and_hazards.md R361: the tick service. -/
def Obligations.TickService : Prop :=
  ∀ s : State,
    (s.tickPending = false → s.serviceTick = s) ∧
    (s.tickPending = true →
      let t := s.serviceTick
      t.tickPending = false ∧
      t.dt.toNat = s.dt.toNat - 1 ∧
      t.st.toNat = s.st.toNat - 1 ∧
      (s.st = 1 → t.toneOn = false ∧ t.trace = s.trace ++ [.stopTone]) ∧
      (s.st ≠ 1 → t.toneOn = s.toneOn ∧ t.trace = s.trace) ∧
      t = { s with tickPending := false, dt := t.dt, st := t.st, toneOn := t.toneOn, trace := t.trace })

/-- 70_reset_and_hazards.md R363: `n` serviced ticks lower the delay timer by `n` and never below zero; five take it from
5 to 0 and a sixth leaves it there. -/
def Obligations.ServicedTicksCountDown : Prop :=
  (∀ (n : Nat) (s : State),
    ((fun u : State => { u with tickPending := true }.serviceTick)^[n] s).dt.toNat = s.dt.toNat - n) ∧
  (∀ s : State, s.dt = 5 →
    ((fun u : State => { u with tickPending := true }.serviceTick)^[5] s).dt = 0 ∧
    ((fun u : State => { u with tickPending := true }.serviceTick)^[6] s).dt = 0)

/-- The model's reading of 10_state.md R46 (log 2, DEDUCED; the sampled inputs: log 1, DESIGN CHOICE): sampling the inputs of a step sets the pending tick if a
period has elapsed, keeps it if it was set, and touches nothing the spec gives the machine besides. -/
def Obligations.PendingTickSaturates : Prop :=
  ∀ s : State,
    s.sampleInputs.tickPending = (s.tickPending || s.nextInput.tick) ∧
    s.sampleInputs.pins = s.nextInput ∧
    s.sampleInputs = { s with
      tickPending := s.sampleInputs.tickPending
      pins := s.sampleInputs.pins
      inputs := s.sampleInputs.inputs
      inputIndex := s.sampleInputs.inputIndex }

/-- 44_timers_keys.md R255: the key-wait step. `p` is the state with the inputs of the step sampled: the timers are not
serviced, and the pending tick is kept or set, never consumed. If no key is held nothing else changes; else some held
key ends the wait, and every held key can be the one reported. That a held key is enough is the spec's decision D9
(log 32, level-triggered). The model's own: the sampling (log 1, DESIGN CHOICE), the tick kept or set in KeyWait
(log 2, DEDUCED), and the preferred key `keyChoice` (log 15, DESIGN CHOICE). -/
def Obligations.KeyWaitStepRule : Prop :=
  ∀ (s : State) (x : Reg), s.mode = .keyWait x →
    let p := s.sampleInputs
    (p.dt = s.dt ∧ p.st = s.st ∧ p.tickPending = (s.tickPending || p.pins.tick)) ∧
    (p.pins.keyHeld = 0 → step s = .next p) ∧
    (p.pins.keyHeld ≠ 0 → ∃ k : Key, p.pins.keyHeld.getLsbD k.val = true ∧
      step s = .next { p with
        v := p.v.set x (BitVec.ofNat 8 k.val), pc := p.pc + 2, mode := .running }) ∧
    (p.pins.keyHeld.getLsbD p.pins.keyChoice.val = true →
      step s = .next { p with
        v := p.v.set x (BitVec.ofNat 8 p.pins.keyChoice.val), pc := p.pc + 2, mode := .running })

/-- 60_exceptions.md R307: no step leaves Faulted, and a run that reaches it has failed. The model's reading: a step
answers `.fault (.terminated r)` (log 6, DEDUCED), and so do a host load and a host start, whose own rules make no check
of the mode (log 6, log 7, DEDUCED). -/
def Obligations.FaultedIsTerminal : Prop :=
  ∀ (s : State) (r : FaultRecord), s.mode = .faulted r →
    s.safe = false ∧
    step s = .fault (.terminated r) ∧
    (∀ bytes offset, hostLoad bytes offset s = .fault (.terminated r)) ∧
    (∀ start, hostStart start s = .fault (.terminated r))

/-- 60_exceptions.md R306: a step that faults changes nothing but the mode and the record, after the timer service of its
own iteration. That RAM is unchanged rests on the spec's decision D2, the checks before any write (log 25). The model's
own: the sampling of the inputs (log 1, DESIGN CHOICE; log 2, DEDUCED). -/
def Obligations.FaultsArePrecise : Prop :=
  ∀ (s t : State) (r : FaultRecord),
    s.mode = .running → step s = .next t → t.mode = .faulted r →
    t = { s.sampleInputs.serviceTick with mode := .faulted r } ∧ r.pc = some s.pc

/-- 60_exceptions.md R304, R300, R305: which instruction can raise which fault, when, and what the record holds; no other
instruction faults after a successful decode. The conditions are the spec's decisions D7 (log 20), D8 (log 21) and D2
with max(I, 4096) (log 25). The model's own: the recorded word is `encode i` (log 10, DEDUCED). -/
def Obligations.OnlyTheListedInstructionsFault : Prop :=
  ∀ (i : Instr) (s t : State) (r : FaultRecord),
    s.faultRecord = none → exec i s = .next t → t.faultRecord = some r →
    r.pc = some s.pc ∧ r.word = some (encode i) ∧
    ((i = .ret ∧ s.sp.val = 0 ∧ r.kind = .stackUnderflow) ∨
     (∃ nnn, i = .call nnn ∧ s.sp.val = 16 ∧ r.kind = .stackOverflow) ∨
     (∃ x, (i = .skp x ∨ i = .sknp x) ∧ (s.readReg x).toNat > 15 ∧ r.kind = .invalidKey (s.readReg x)) ∨
     (∃ len : Nat, r.kind = .memoryOutOfRange (max s.i.toNat 4096) ∧ s.i.toNat + len ≥ 4096 ∧
       ((∃ x, i = .ldB x ∧ len = 2) ∨
        (∃ x, (i = .storeRegs x ∨ i = .loadRegs x) ∧ len = x.val) ∨
        (∃ x y n, i = .drw x y n ∧ n.toNat = len + 1))))

/-- The model's reading (log 6, DEDUCED) of 00_scope.md R12 and 60_exceptions.md R305, R307: a step of a core that has not
faulted always gives a next state, since a step that raises a fault gives the Faulted state as its next state. R12
lists that outcome apart from the next states, and R305 says that the core then stops, which in the model is the step
after. -/
def Obligations.StepStopsOnlyInFaulted : Prop :=
  ∀ s : State, s.faultRecord = none → ∃ t, step s = .next t

/-! ### The invariant -/

/-- Every step keeps the invariant of the machine: the RAM canonical and inside 4096 bytes, `pc` at most 0x10FE, return
addresses below 4095, the tone on while ST runs, `toneOn` the last tone request sent (10_state.md R36, R42;
20_memory.md R70). -/
def Obligations.StepKeepsTheInvariant : Prop :=
  ∀ s t : State, s.Inv → step s = .next t → t.Inv

/-- The invariant holds after construction, whatever the parameters, and so at reset. -/
def Obligations.ConstructionMeetsTheInvariant : Prop :=
  (∀ p : Params, (State.construct p).Inv) ∧ State.reset.Inv

/-- The host's load and start keep the invariant (70_reset_and_hazards.md R352, R354). -/
def Obligations.HostOperationsKeepTheInvariant : Prop :=
  ∀ s t : State, s.Inv →
    (∀ bytes offset, hostLoad bytes offset s = .next t → t.Inv) ∧
    (∀ start, hostStart start s = .next t → t.Inv)

/-- 10_state.md R36: the largest values `pc` can take. The invariant rules out states whose stack holds values no CALL
pushed. -/
def Obligations.PcNeverWraps : Prop :=
  ∀ (i : Instr) (s t : State), s.Inv → s.pc.toNat ≤ 4094 → exec i s = .next t →
    t.pc.toNat ≤ 0x10FE ∧
    ((∀ nnn, i ≠ .jpV0 nnn) → t.pc.toNat ≤ 4098) ∧
    (i = .ret → t.pc.toNat ≤ 4096) ∧
    (∀ nnn, i = .jp nnn ∨ i = .call nnn → t.pc.toNat ≤ 4095)

/-! ### Reset and the host -/

/-- 70_reset_and_hazards.md R351: construction, whatever FONT is. The zeroes of I, the stack, `toneOn` and `tickPending` are
the spec's own decision D15 (log 5). -/
def Obligations.ConstructionValues : Prop :=
  ∀ p : Params,
    let s := State.construct p
    (∀ r : Reg, s.readReg r = 0) ∧ s.pc = 0 ∧ s.i = 0 ∧ s.sp.val = 0 ∧ (∀ j : Fin 16, s.stack[j] = 0) ∧
    s.dt = 0 ∧ s.st = 0 ∧ (∀ px py, pixel s.fb px py = false) ∧
    (∀ (g : Fin 16) (k : Fin 5), s.readByte (5 * g.val + k.val) = p.font[g][k]) ∧
    (∀ a, 80 ≤ a → s.readByte a = 0) ∧
    s.tickPending = false ∧ s.toneOn = false ∧ s.mode = .running ∧ s.faultRecord = none ∧ s.trace = []

/-- 70_reset_and_hazards.md R352: a load before the run. That no load is possible after the start is decision D19
(log 8); that a failed load enters Faulted with a record that has neither pc nor word is the model's reading (log 7,
DEDUCED). -/
def Obligations.HostLoadRule : Prop :=
  ∀ (bytes : List Byte) (offset : Nat) (s : State),
    Memory.wf s.params.font s.mem → s.faultRecord = none → s.runStarted = false →
    (offset + bytes.length > 4096 →
      ∃ t, hostLoad bytes offset s = .next t ∧
        t = { s with mode := .faulted ⟨.loadOverflow offset bytes.length, none, none⟩ }) ∧
    (offset + bytes.length ≤ 4096 →
      ∃ t, hostLoad bytes offset s = .next t ∧
        (∀ k, (h : k < bytes.length) → t.readByte (offset + k) = bytes[k]) ∧
        SameMemoryOutside offset bytes.length s t ∧
        t = { s with mem := t.mem })

/-- 70_reset_and_hazards.md R354: the start of the run. The bound is the spec's decision D14 (log 24), and that no load is
possible after the start is its decision D19 (log 8). The model's own: a bad start enters Faulted with a record that has
neither pc nor word (log 7, DEDUCED), and a second start is refused (log 8, DESIGN CHOICE). -/
def Obligations.HostStartRule : Prop :=
  ∀ (start : Word) (s : State), s.faultRecord = none →
    (s.runStarted = false → start.toNat ≥ 4096 →
      hostStart start s = .next { s with mode := .faulted ⟨.invalidStartAddress start, none, none⟩ }) ∧
    (s.runStarted = false → start.toNat < 4096 →
      hostStart start s = .next { s with pc := start, mode := .running, runStarted := true }) ∧
    (s.runStarted = true → hostStart start s = .refused .startAfterStart) ∧
    (s.runStarted = true → ∀ bytes offset, hostLoad bytes offset s = .refused .loadAfterStart)

/-- 20_memory.md R78: a read returns the last value written to that address, and a write leaves every other address
alone. -/
def Obligations.ReadReturnsTheLastWrite : Prop :=
  ∀ (s : State) (a : Nat) (b : Byte), Memory.wf s.params.font s.mem → a < 4096 →
    (s.storeBytes a [b]).readByte a = b ∧
    SameMemoryOutside a 1 s (s.storeBytes a [b]) ∧
    Memory.wf s.params.font (s.storeBytes a [b]).mem

/-! ### Control transfer (40_control.md) -/

/-- 40_control.md R132: SYS. -/
def Obligations.SysRule : Prop :=
  ∀ (nnn : Addr12) (s : State), nnn ≠ 0x0E0#12 → nnn ≠ 0x0EE#12 →
    decodeWord (BitVec.ofNat 16 nnn.toNat) = .ok (.sys nnn) ∧
    exec (.sys nnn) s = .next { s with pc := s.pc + 2 }

/-- 40_control.md R133: JP. -/
def Obligations.JumpRule : Prop :=
  ∀ (nnn : Addr12) (s : State),
    decodeWord (BitVec.ofNat 16 (0x1000 + nnn.toNat)) = .ok (.jp nnn) ∧
    ∃ t, exec (.jp nnn) s = .next t ∧ t.pc.toNat = nnn.toNat ∧ t = { s with pc := t.pc }

/-- 40_control.md R134: CALL. The fault is the spec's decision D7 (log 20). -/
def Obligations.CallRule : Prop :=
  ∀ (nnn : Addr12) (s : State),
    decodeWord (BitVec.ofNat 16 (0x2000 + nnn.toNat)) = .ok (.call nnn) ∧
    (s.sp.val < 16 →
      ∃ t, exec (.call nnn) s = .next t ∧
        (∀ j : Fin 16, t.stack[j] = if j.val = s.sp.val then s.pc else s.stack[j]) ∧
        t.sp.val = s.sp.val + 1 ∧ t.pc.toNat = nnn.toNat ∧
        t = { s with stack := t.stack, sp := t.sp, pc := t.pc }) ∧
    (s.sp.val = 16 →
      exec (.call nnn) s = .next { s with
        mode := .faulted ⟨.stackOverflow, some s.pc, some (BitVec.ofNat 16 (0x2000 + nnn.toNat))⟩ })

/-- 40_control.md R131: RET. The fault is the spec's decision D7 (log 20). -/
def Obligations.ReturnRule : Prop :=
  ∀ s : State,
    decodeWord 0x00EE#16 = .ok .ret ∧
    (∀ j : Fin 16, s.sp.val = j.val + 1 →
      ∃ t, exec .ret s = .next t ∧ t.sp.val = j.val ∧ t.pc = s.stack[j] + 2 ∧
        t = { s with sp := t.sp, pc := t.pc }) ∧
    (s.sp.val = 0 →
      exec .ret s = .next { s with mode := .faulted ⟨.stackUnderflow, some s.pc, some 0x00EE#16⟩ })

/-- 40_control.md R131, R134: a CALL and then a RET resume after the CALL, with the stack pointer as before. -/
def Obligations.ReturnUndoesCall : Prop :=
  ∀ (nnn : Addr12) (s t u : State), s.sp.val < 16 → exec (.call nnn) s = .next t →
    u.sp = t.sp → u.stack = t.stack →
    ∃ w, exec .ret u = .next w ∧ w.pc = s.pc + 2 ∧ w.sp = s.sp ∧ w = { u with sp := w.sp, pc := w.pc }

/-- 40_control.md R135, R136: the skips on an immediate. -/
def Obligations.SkipImmediateRule : Prop :=
  ∀ (x : Reg) (kk : Byte) (s : State),
    decodeWord (BitVec.ofNat 16 (0x3000 + 256 * x.val + kk.toNat)) = .ok (.seImm x kk) ∧
    decodeWord (BitVec.ofNat 16 (0x4000 + 256 * x.val + kk.toNat)) = .ok (.sneImm x kk) ∧
    (s.readReg x = kk →
      exec (.seImm x kk) s = .next { s with pc := s.pc + 4 } ∧
      exec (.sneImm x kk) s = .next { s with pc := s.pc + 2 }) ∧
    (s.readReg x ≠ kk →
      exec (.seImm x kk) s = .next { s with pc := s.pc + 2 } ∧
      exec (.sneImm x kk) s = .next { s with pc := s.pc + 4 })

/-- 40_control.md R137, R138: the skips on two registers. -/
def Obligations.SkipRegisterRule : Prop :=
  ∀ (x y : Reg) (s : State),
    decodeWord (BitVec.ofNat 16 (0x5000 + 256 * x.val + 16 * y.val)) = .ok (.seReg x y) ∧
    decodeWord (BitVec.ofNat 16 (0x9000 + 256 * x.val + 16 * y.val)) = .ok (.sneReg x y) ∧
    (s.readReg x = s.readReg y →
      exec (.seReg x y) s = .next { s with pc := s.pc + 4 } ∧
      exec (.sneReg x y) s = .next { s with pc := s.pc + 2 }) ∧
    (s.readReg x ≠ s.readReg y →
      exec (.seReg x y) s = .next { s with pc := s.pc + 2 } ∧
      exec (.sneReg x y) s = .next { s with pc := s.pc + 4 })

/-- 40_control.md R139: JP V0, a 16-bit sum with no 12-bit wrap. -/
def Obligations.JumpOffsetRule : Prop :=
  ∀ (nnn : Addr12) (s : State),
    decodeWord (BitVec.ofNat 16 (0xB000 + nnn.toNat)) = .ok (.jpV0 nnn) ∧
    ∃ t, exec (.jpV0 nnn) s = .next t ∧ t.pc.toNat = nnn.toNat + (s.readReg 0).toNat ∧ t = { s with pc := t.pc }

/-! ### Registers and the ALU (41_alu.md) -/

/-- 41_alu.md R162: LD Vx, kk. -/
def Obligations.LoadImmediateRule : Prop :=
  ∀ (x : Reg) (kk : Byte) (s : State),
    decodeWord (BitVec.ofNat 16 (0x6000 + 256 * x.val + kk.toNat)) = .ok (.ldImm x kk) ∧
    ∃ t, exec (.ldImm x kk) s = .next t ∧ t.readReg x = kk ∧ t.pc = s.pc + 2 ∧ OnlyRegsAndPc [x] s t

/-- 41_alu.md R163: ADD Vx, kk; VF is written only as the destination. -/
def Obligations.AddImmediateRule : Prop :=
  ∀ (x : Reg) (kk : Byte) (s : State),
    decodeWord (BitVec.ofNat 16 (0x7000 + 256 * x.val + kk.toNat)) = .ok (.addImm x kk) ∧
    ∃ t, exec (.addImm x kk) s = .next t ∧
      (t.readReg x).toNat = ((s.readReg x).toNat + kk.toNat) % 256 ∧
      t.pc = s.pc + 2 ∧ OnlyRegsAndPc [x] s t

/-- 41_alu.md R164: LD Vx, Vy. -/
def Obligations.CopyRegisterRule : Prop :=
  ∀ (x y : Reg) (s : State),
    decodeWord (BitVec.ofNat 16 (0x8000 + 256 * x.val + 16 * y.val)) = .ok (.ldReg x y) ∧
    ∃ t, exec (.ldReg x y) s = .next t ∧ t.readReg x = s.readReg y ∧ t.pc = s.pc + 2 ∧ OnlyRegsAndPc [x] s t

/-- 41_alu.md R165, R166, R167: OR, AND and XOR, bit by bit; VF is written only as the destination, which is the
spec's decision D5 (log 17). -/
def Obligations.LogicRule : Prop :=
  ∀ (x y : Reg) (s : State),
    decodeWord (BitVec.ofNat 16 (0x8001 + 256 * x.val + 16 * y.val)) = .ok (.orReg x y) ∧
    decodeWord (BitVec.ofNat 16 (0x8002 + 256 * x.val + 16 * y.val)) = .ok (.andReg x y) ∧
    decodeWord (BitVec.ofNat 16 (0x8003 + 256 * x.val + 16 * y.val)) = .ok (.xorReg x y) ∧
    (∃ t, exec (.orReg x y) s = .next t ∧
      (∀ b, (t.readReg x).getLsbD b = ((s.readReg x).getLsbD b || (s.readReg y).getLsbD b)) ∧
      t.pc = s.pc + 2 ∧ OnlyRegsAndPc [x] s t) ∧
    (∃ t, exec (.andReg x y) s = .next t ∧
      (∀ b, (t.readReg x).getLsbD b = ((s.readReg x).getLsbD b && (s.readReg y).getLsbD b)) ∧
      t.pc = s.pc + 2 ∧ OnlyRegsAndPc [x] s t) ∧
    (∃ t, exec (.xorReg x y) s = .next t ∧
      (∀ b, (t.readReg x).getLsbD b = ((s.readReg x).getLsbD b ^^ (s.readReg y).getLsbD b)) ∧
      t.pc = s.pc + 2 ∧ OnlyRegsAndPc [x] s t)

/-- 41_alu.md R161: the flagged write under each VF_WRITE_ORDER. -/
def Obligations.FlaggedWriteOrder : Prop :=
  ∀ (s : State) (x : Reg) (r f : Byte),
    let t := s.writeFlagged x r f
    (x ≠ 15 → t.readReg x = r ∧ t.readReg 15 = f) ∧
    (x = 15 → s.params.vfWriteOrder = .resultLast → t.readReg 15 = r) ∧
    (x = 15 → s.params.vfWriteOrder = .flagLast → t.readReg 15 = f) ∧
    SameRegsExcept [x, 15] s t ∧ t = { s with v := t.v }

/-- 41_alu.md R168: ADD Vx, Vy with the carry, for both values of VF_WRITE_ORDER when x = 15. -/
def Obligations.AddRegisterRule : Prop :=
  ∀ (x y : Reg) (s : State),
    let a := (s.readReg x).toNat
    let b := (s.readReg y).toNat
    let carry := if a + b > 255 then 1 else 0
    decodeWord (BitVec.ofNat 16 (0x8004 + 256 * x.val + 16 * y.val)) = .ok (.addReg x y) ∧
    ∃ t, exec (.addReg x y) s = .next t ∧
      (x ≠ 15 → (t.readReg x).toNat = (a + b) % 256 ∧ (t.readReg 15).toNat = carry) ∧
      (x = 15 → s.params.vfWriteOrder = .resultLast → (t.readReg 15).toNat = (a + b) % 256) ∧
      (x = 15 → s.params.vfWriteOrder = .flagLast → (t.readReg 15).toNat = carry) ∧
      t.pc = s.pc + 2 ∧ OnlyRegsAndPc [x, 15] s t

/-- 41_alu.md R169, R171: SUB and SUBN with the no-borrow flag, for both values of VF_WRITE_ORDER when x = 15. -/
def Obligations.SubtractRule : Prop :=
  ∀ (x y : Reg) (s : State),
    let a := (s.readReg x).toNat
    let b := (s.readReg y).toNat
    decodeWord (BitVec.ofNat 16 (0x8005 + 256 * x.val + 16 * y.val)) = .ok (.subReg x y) ∧
    decodeWord (BitVec.ofNat 16 (0x8007 + 256 * x.val + 16 * y.val)) = .ok (.subn x y) ∧
    (∃ t, exec (.subReg x y) s = .next t ∧
      (x ≠ 15 → (t.readReg x).toNat = (a + 256 - b) % 256 ∧ (t.readReg 15).toNat = if a ≥ b then 1 else 0) ∧
      (x = 15 → s.params.vfWriteOrder = .resultLast → (t.readReg 15).toNat = (a + 256 - b) % 256) ∧
      (x = 15 → s.params.vfWriteOrder = .flagLast → (t.readReg 15).toNat = if a ≥ b then 1 else 0) ∧
      t.pc = s.pc + 2 ∧ OnlyRegsAndPc [x, 15] s t) ∧
    (∃ t, exec (.subn x y) s = .next t ∧
      (x ≠ 15 → (t.readReg x).toNat = (b + 256 - a) % 256 ∧ (t.readReg 15).toNat = if b ≥ a then 1 else 0) ∧
      (x = 15 → s.params.vfWriteOrder = .resultLast → (t.readReg 15).toNat = (b + 256 - a) % 256) ∧
      (x = 15 → s.params.vfWriteOrder = .flagLast → (t.readReg 15).toNat = if b ≥ a then 1 else 0) ∧
      t.pc = s.pc + 2 ∧ OnlyRegsAndPc [x, 15] s t)

/-- 41_alu.md R170, R172: SHR with bit 0 and SHL with bit 3, for both values of VF_WRITE_ORDER when x = 15. That `y` is
ignored is the spec's decision D6 (log 18). -/
def Obligations.ShiftRule : Prop :=
  ∀ (x y : Reg) (s : State),
    let a := (s.readReg x).toNat
    decodeWord (BitVec.ofNat 16 (0x8006 + 256 * x.val + 16 * y.val)) = .ok (.shr x y) ∧
    decodeWord (BitVec.ofNat 16 (0x800E + 256 * x.val + 16 * y.val)) = .ok (.shl x y) ∧
    (∃ t, exec (.shr x y) s = .next t ∧
      (x ≠ 15 → (t.readReg x).toNat = a / 2 ∧ (t.readReg 15).toNat = a % 2) ∧
      (x = 15 → s.params.vfWriteOrder = .resultLast → (t.readReg 15).toNat = a / 2) ∧
      (x = 15 → s.params.vfWriteOrder = .flagLast → (t.readReg 15).toNat = a % 2) ∧
      t.pc = s.pc + 2 ∧ OnlyRegsAndPc [x, 15] s t) ∧
    (∃ t, exec (.shl x y) s = .next t ∧
      (x ≠ 15 → (t.readReg x).toNat = 2 * a % 256 ∧ (t.readReg 15).toNat = a / 8 % 2) ∧
      (x = 15 → s.params.vfWriteOrder = .resultLast → (t.readReg 15).toNat = 2 * a % 256) ∧
      (x = 15 → s.params.vfWriteOrder = .flagLast → (t.readReg 15).toNat = a / 8 % 2) ∧
      t.pc = s.pc + 2 ∧ OnlyRegsAndPc [x, 15] s t)

/-- 41_alu.md R173: RND. The random byte is the input `rnd` of the step, any byte (log 1; decision D27): the result has
only bits of `kk`, and every such byte is the result for some random byte. -/
def Obligations.RandomRule : Prop :=
  ∀ (x : Reg) (kk : Byte) (s : State),
    decodeWord (BitVec.ofNat 16 (0xC000 + 256 * x.val + kk.toNat)) = .ok (.rnd x kk) ∧
    (∃ t, exec (.rnd x kk) s = .next t ∧
      (∀ b, (t.readReg x).getLsbD b = (s.pins.rnd.getLsbD b && kk.getLsbD b)) ∧
      t.pc = s.pc + 2 ∧ OnlyRegsAndPc [x] s t) ∧
    (∀ r : Byte, r &&& kk = r →
      ∃ byte t, exec (.rnd x kk) { s with pins := { s.pins with rnd := byte } } = .next t ∧ t.readReg x = r)

/-! ### Index register and memory (42_index_memory.md) -/

/-- 42_index_memory.md R201, R203: LD I, nnn and LD F, Vx (the full byte times five). -/
def Obligations.SetIndexRule : Prop :=
  ∀ (nnn : Addr12) (x : Reg) (s : State),
    decodeWord (BitVec.ofNat 16 (0xA000 + nnn.toNat)) = .ok (.ldI nnn) ∧
    decodeWord (BitVec.ofNat 16 (0xF029 + 256 * x.val)) = .ok (.ldF x) ∧
    (∃ t, exec (.ldI nnn) s = .next t ∧ t.i.toNat = nnn.toNat ∧ t = { s with i := t.i, pc := s.pc + 2 }) ∧
    (∃ t, exec (.ldF x) s = .next t ∧ t.i.toNat = (s.readReg x).toNat * 5 ∧ t = { s with i := t.i, pc := s.pc + 2 })

/-- 42_index_memory.md R202: ADD I, Vx, no flag. The wrap at 2^16 is the spec's decision D13 (log 23). -/
def Obligations.AddIndexRule : Prop :=
  ∀ (x : Reg) (s : State),
    decodeWord (BitVec.ofNat 16 (0xF01E + 256 * x.val)) = .ok (.addI x) ∧
    ∃ t, exec (.addI x) s = .next t ∧
      t.i.toNat = (s.i.toNat + (s.readReg x).toNat) % 65536 ∧ t = { s with i := t.i, pc := s.pc + 2 }

/-- 42_index_memory.md R204: LD B, Vx. In a state whose RAM is in canonical form (the invariant), the three digits are
stored at I, I+1, I+2 and no other byte changes; out of range, nothing is written. The fault, max(I, 4096) and the check
before any write are the spec's decision D2 (log 25). -/
def Obligations.DecimalStoreRule : Prop :=
  ∀ (x : Reg) (s : State),
    decodeWord (BitVec.ofNat 16 (0xF033 + 256 * x.val)) = .ok (.ldB x) ∧
    (Memory.wf s.params.font s.mem → s.i.toNat + 2 < 4096 →
      ∃ t, exec (.ldB x) s = .next t ∧
        (t.readByte (effectiveAddr s 0)).toNat = (s.readReg x).toNat / 100 ∧
        (t.readByte (effectiveAddr s 1)).toNat = (s.readReg x).toNat / 10 % 10 ∧
        (t.readByte (effectiveAddr s 2)).toNat = (s.readReg x).toNat % 10 ∧
        SameMemoryOutside (effectiveAddr s 0) 3 s t ∧
        t = { s with mem := t.mem, pc := s.pc + 2 }) ∧
    (s.i.toNat + 2 ≥ 4096 →
      exec (.ldB x) s = .next { s with
        mode := .faulted ⟨.memoryOutOfRange (max s.i.toNat 4096), some s.pc,
          some (BitVec.ofNat 16 (0xF033 + 256 * x.val))⟩ })

/-- 42_index_memory.md R205: LD [I], Vx. In a state whose RAM is in canonical form (the invariant), V0..Vx are stored from
I on and no other byte changes. That I is unchanged is the spec's decision D4 (log 16); the fault, max(I, 4096) and the
check before any write are its decision D2 (log 25). -/
def Obligations.StoreRegistersRule : Prop :=
  ∀ (x : Reg) (s : State),
    decodeWord (BitVec.ofNat 16 (0xF055 + 256 * x.val)) = .ok (.storeRegs x) ∧
    (Memory.wf s.params.font s.mem → s.i.toNat + x.val < 4096 →
      ∃ t, exec (.storeRegs x) s = .next t ∧
        (∀ k : Reg, k ≤ x → t.readByte (effectiveAddr s k.val) = s.readReg k) ∧
        SameMemoryOutside (effectiveAddr s 0) (x.val + 1) s t ∧
        t = { s with mem := t.mem, pc := s.pc + 2 }) ∧
    (s.i.toNat + x.val ≥ 4096 →
      exec (.storeRegs x) s = .next { s with
        mode := .faulted ⟨.memoryOutOfRange (max s.i.toNat 4096), some s.pc,
          some (BitVec.ofNat 16 (0xF055 + 256 * x.val))⟩ })

/-- 42_index_memory.md R206: LD Vx, [I]. That I is unchanged is the spec's decision D4 (log 16); the fault, max(I, 4096)
and the check before any write are its decision D2 (log 25). -/
def Obligations.LoadRegistersRule : Prop :=
  ∀ (x : Reg) (s : State),
    decodeWord (BitVec.ofNat 16 (0xF065 + 256 * x.val)) = .ok (.loadRegs x) ∧
    (s.i.toNat + x.val < 4096 →
      ∃ t, exec (.loadRegs x) s = .next t ∧
        (∀ k : Reg, k ≤ x → t.readReg k = s.readByte (effectiveAddr s k.val)) ∧
        (∀ k : Reg, x < k → t.readReg k = s.readReg k) ∧
        SameMemory s t ∧
        t = { s with v := t.v, pc := s.pc + 2 }) ∧
    (s.i.toNat + x.val ≥ 4096 →
      exec (.loadRegs x) s = .next { s with
        mode := .faulted ⟨.memoryOutOfRange (max s.i.toNat 4096), some s.pc,
          some (BitVec.ofNat 16 (0xF065 + 256 * x.val))⟩ })

/-- 20_memory.md R84: a word stored by `Fx55` over `pc + 2` is the word the next iteration fetches. -/
def Obligations.StoreIsSeenByTheNextFetch : Prop :=
  ∀ (x : Reg) (s t : State),
    Memory.wf s.params.font s.mem → s.pc.toNat ≤ 4092 → s.i = s.pc + 2 → 1 ≤ x.val → s.i.toNat + x.val < 4096 →
    exec (.storeRegs x) s = .next t →
    t.pc = s.pc + 2 ∧ t.fetchWord.toNat = 256 * (s.readReg 0).toNat + (s.readReg 1).toNat

/-! ### Display (43_display.md) -/

/-- 43_display.md R231: CLS clears every pixel and sends one all-zero frame. -/
def Obligations.ClearScreenRule : Prop :=
  ∀ s : State,
    decodeWord 0x00E0#16 = .ok .cls ∧
    ∃ t, exec .cls s = .next t ∧
      (∀ px py, pixel t.fb px py = false) ∧ t.trace = s.trace ++ [.presentFrame t.fb] ∧
      t = { s with fb := t.fb, trace := t.trace, pc := s.pc + 2 }

/-- 43_display.md R232, R233: DRW toggles exactly the covered pixels, VF says whether one of them was set, one frame is
sent, and a sprite that leaves RAM faults before anything is written. The bit order is the spec's decision D16
(log 14); the fault, max(I, 4096) and the check before any write are its decision D2 (log 25). -/
def Obligations.DrawRule : Prop :=
  ∀ (x y : Reg) (n : Nibble) (s : State),
    let covers := spriteCovers s (s.readReg x).toNat (s.readReg y).toNat n.toNat
    decodeWord (BitVec.ofNat 16 (0xD000 + 256 * x.val + 16 * y.val + n.toNat)) = .ok (.drw x y n) ∧
    (n = 0 ∨ s.i.toNat + n.toNat ≤ 4096 →
      ∃ t, exec (.drw x y n) s = .next t ∧
        (∀ px py, covers px py → pixel t.fb px py = !pixel s.fb px py) ∧
        (∀ px py, ¬ covers px py → pixel t.fb px py = pixel s.fb px py) ∧
        ((∃ px py, covers px py ∧ pixel s.fb px py = true) → t.readReg 15 = 1) ∧
        ((¬ ∃ px py, covers px py ∧ pixel s.fb px py = true) → t.readReg 15 = 0) ∧
        SameRegsExcept [15] s t ∧ SameMemory s t ∧
        t.trace = s.trace ++ [.presentFrame t.fb] ∧
        t = { s with v := t.v, fb := t.fb, trace := t.trace, pc := s.pc + 2 }) ∧
    (n ≠ 0 ∧ s.i.toNat + n.toNat > 4096 →
      exec (.drw x y n) s = .next { s with
        mode := .faulted ⟨.memoryOutOfRange (max s.i.toNat 4096), some s.pc,
          some (BitVec.ofNat 16 (0xD000 + 256 * x.val + 16 * y.val + n.toNat))⟩ })

/-- 43_display.md R235: after a CLS a draw shows exactly the sprite with VF = 0, and the same draw again (the coordinates
and I as at the first) restores the framebuffer and sets VF = 1 if the sprite has a set bit. The bit order is the
spec's decision D16 (log 14). -/
def Obligations.DrawTwiceRestores : Prop :=
  ∀ (x y : Reg) (n : Nibble) (s t : State),
    x ≠ 15 → y ≠ 15 → (∀ px py, pixel s.fb px py = false) → (n = 0 ∨ s.i.toNat + n.toNat ≤ 4096) →
    exec (.drw x y n) s = .next t →
    (∀ px py, pixel t.fb px py = true ↔ spriteCovers s (s.readReg x).toNat (s.readReg y).toNat n.toNat px py) ∧
    t.readReg 15 = 0 ∧
    ∃ u, exec (.drw x y n) t = .next u ∧ u.fb = s.fb ∧
      ((∃ px py, spriteCovers s (s.readReg x).toNat (s.readReg y).toNat n.toNat px py) → u.readReg 15 = 1)

/-! ### Timers and keys (44_timers_keys.md) -/

/-- 44_timers_keys.md R250, R251, R252: SKP and SKNP. The fault above 15 is the spec's decision D8 (log 21). -/
def Obligations.SkipKeyRule : Prop :=
  ∀ (x : Reg) (s : State),
    decodeWord (BitVec.ofNat 16 (0xE09E + 256 * x.val)) = .ok (.skp x) ∧
    decodeWord (BitVec.ofNat 16 (0xE0A1 + 256 * x.val)) = .ok (.sknp x) ∧
    (∀ k : Key, (s.readReg x).toNat = k.val →
      exec (.skp x) s = .next { s with pc := s.pc + if s.pins.keyHeld.getLsbD k.val then 4 else 2 } ∧
      exec (.sknp x) s = .next { s with pc := s.pc + if s.pins.keyHeld.getLsbD k.val then 2 else 4 }) ∧
    ((s.readReg x).toNat > 15 →
      exec (.skp x) s = .next { s with
        mode := .faulted ⟨.invalidKey (s.readReg x), some s.pc, some (BitVec.ofNat 16 (0xE09E + 256 * x.val))⟩ } ∧
      exec (.sknp x) s = .next { s with
        mode := .faulted ⟨.invalidKey (s.readReg x), some s.pc, some (BitVec.ofNat 16 (0xE0A1 + 256 * x.val))⟩ })

/-- 44_timers_keys.md R253, R256: LD Vx, DT and LD DT, Vx; in a step, the first sees the timer after the tick of its own
iteration, and the value the second writes is not lowered by that tick. That the inputs of a step, its tick among them,
are sampled at its start is the model's own (log 1, DESIGN CHOICE; log 2, DEDUCED). -/
def Obligations.DelayTimerRule : Prop :=
  ∀ (x : Reg) (s : State),
    decodeWord (BitVec.ofNat 16 (0xF007 + 256 * x.val)) = .ok (.ldVxDt x) ∧
    decodeWord (BitVec.ofNat 16 (0xF015 + 256 * x.val)) = .ok (.ldDtVx x) ∧
    (∃ t, exec (.ldVxDt x) s = .next t ∧ t.readReg x = s.dt ∧ t.pc = s.pc + 2 ∧ OnlyRegsAndPc [x] s t) ∧
    exec (.ldDtVx x) s = .next { s with dt := s.readReg x, pc := s.pc + 2 } ∧
    (s.mode = .running → s.pc.toNat < 4095 → decodeWord s.fetchWord = .ok (.ldVxDt x) →
      ∃ t, step s = .next t ∧ t.readReg x = s.sampleInputs.serviceTick.dt) ∧
    (s.mode = .running → s.pc.toNat < 4095 → decodeWord s.fetchWord = .ok (.ldDtVx x) →
      ∃ t, step s = .next t ∧ t.dt = s.readReg x)

/-- 44_timers_keys.md R257: LD ST, Vx. That zero sends no request is the spec's decision D11 (log 28). -/
def Obligations.SoundTimerRule : Prop :=
  ∀ (x : Reg) (s : State),
    decodeWord (BitVec.ofNat 16 (0xF018 + 256 * x.val)) = .ok (.ldStVx x) ∧
    (s.readReg x ≠ 0 →
      exec (.ldStVx x) s = .next { s with
        st := s.readReg x, trace := s.trace ++ [.startTone], toneOn := true, pc := s.pc + 2 }) ∧
    (s.readReg x = 0 → exec (.ldStVx x) s = .next { s with st := 0, pc := s.pc + 2 })

/-- 44_timers_keys.md R254: LD Vx, K enters the wait and leaves everything else, `pc` and the timers included. -/
def Obligations.EnterKeyWaitRule : Prop :=
  ∀ (x : Reg) (s : State),
    decodeWord (BitVec.ofNat 16 (0xF00A + 256 * x.val)) = .ok (.ldVxK x) ∧
    exec (.ldVxK x) s = .next { s with mode := .keyWait x }

/-! ### Whole-machine rules -/

/-- 10_state.md R31, its table of writers: no instruction writes a general register but those the table lists for it. -/
def Obligations.OnlyListedRegistersAreWritten : Prop :=
  ∀ (i : Instr) (s t : State), exec i s = .next t → SameRegsExcept (registersWritten i) s t

/-- 20_memory.md R72: only `Fx33` and `Fx55` write RAM, and only the bytes from I on that the rule lists; every other byte
reads as before. The RAM is in canonical form (the invariant). -/
def Obligations.OnlyStoresWriteRam : Prop :=
  ∀ (i : Instr) (s t : State), Memory.wf s.params.font s.mem → exec i s = .next t →
    (∀ x, i = .ldB x → SameMemoryOutside (effectiveAddr s 0) 3 s t) ∧
    (∀ x, i = .storeRegs x → SameMemoryOutside (effectiveAddr s 0) (x.val + 1) s t) ∧
    ((∀ x, i ≠ .ldB x ∧ i ≠ .storeRegs x) → SameMemory s t)

/-- 10_state.md R39, R40: only CALL writes the stack, at SP, and only CALL and RET move SP, by one. -/
def Obligations.OnlyCallAndRetTouchTheStack : Prop :=
  ∀ (i : Instr) (s t : State), exec i s = .next t →
    (∀ j : Fin 16, t.stack[j] ≠ s.stack[j] → (∃ nnn, i = .call nnn) ∧ j.val = s.sp.val) ∧
    (t.sp ≠ s.sp → (∃ nnn, i = .call nnn ∧ t.sp.val = s.sp.val + 1) ∨ (i = .ret ∧ s.sp.val = t.sp.val + 1))

/-- 10_state.md R38, R41, R43, R45: which instructions write I, the timers, the framebuffer and the mode. -/
def Obligations.WritersOfTheSpecialState : Prop :=
  ∀ (i : Instr) (s t : State), exec i s = .next t →
    (t.i ≠ s.i → (∃ nnn, i = .ldI nnn) ∨ ∃ x, i = .addI x ∨ i = .ldF x) ∧
    (t.dt ≠ s.dt → ∃ x, i = .ldDtVx x) ∧
    (t.st ≠ s.st → ∃ x, i = .ldStVx x) ∧
    (t.fb ≠ s.fb → i = .cls ∨ ∃ x y n, i = .drw x y n) ∧
    (t.mode ≠ s.mode → (∃ x, i = .ldVxK x ∧ t.mode = .keyWait x) ∨ ∃ r, t.mode = .faulted r) ∧
    t.tickPending = s.tickPending

/-- 60_exceptions.md R320: an instruction sends at most one port event: a frame from CLS or DRW, `startTone` from a nonzero
`Fx18`, and nothing else; it never sends `stopTone`. -/
def Obligations.OnePortEventPerInstruction : Prop :=
  ∀ (i : Instr) (s t : State), exec i s = .next t →
    t.trace = s.trace ∨
    (t.trace = s.trace ++ [.presentFrame t.fb] ∧ (i = .cls ∨ ∃ x y n, i = .drw x y n)) ∨
    (t.trace = s.trace ++ [.startTone] ∧ t.toneOn = true ∧ ∃ x, i = .ldStVx x ∧ s.readReg x ≠ 0)

/-- 00_scope.md R6: the parameters are fixed; and the host's phase and the inputs belong to the environment: an
instruction changes none of them, and a step only samples the next input (log 1). -/
def Obligations.ParametersNeverChange : Prop :=
  (∀ (i : Instr) (s t : State), exec i s = .next t →
    t.params = s.params ∧ t.runStarted = s.runStarted ∧ t.pins = s.pins ∧ t.inputs = s.inputs ∧
      t.inputIndex = s.inputIndex) ∧
  (∀ s t : State, step s = .next t →
    t.params = s.params ∧ t.runStarted = s.runStarted ∧ t.pins = s.nextInput ∧ t.inputs = s.inputs.tail ∧
      t.inputIndex = s.inputIndex + 1)

/-- 44_timers_keys.md R258 and 70_reset_and_hazards.md R362: in one step of a Running core a timer that is not written falls by
at most one and never rises; in a key-wait step both timers stand still. -/
def Obligations.TimersFallByAtMostOne : Prop :=
  ∀ s t : State, step s = .next t →
    (s.mode = .running → (∀ x, decodeWord s.fetchWord ≠ .ok (.ldDtVx x)) →
      t.dt.toNat ≤ s.dt.toNat ∧ s.dt.toNat ≤ t.dt.toNat + 1) ∧
    (s.mode = .running → (∀ x, decodeWord s.fetchWord ≠ .ok (.ldStVx x)) →
      t.st.toNat ≤ s.st.toNat ∧ s.st.toNat ≤ t.st.toNat + 1) ∧
    (∀ x, s.mode = .keyWait x → t.dt = s.dt ∧ t.st = s.st)

/-- 70_reset_and_hazards.md R367: the core does not stop at a self-jump: every step from one gives a state at the same
self-jump, with the registers, the RAM and the framebuffer as they were. -/
def Obligations.SelfJumpKeepsRunning : Prop :=
  ∀ s : State, s.atSelfJump = true →
    ∃ t, step s = .next t ∧ t.atSelfJump = true ∧ t.pc = s.pc ∧ t.v = s.v ∧ t.mem = s.mem ∧ t.fb = s.fb
end

