-- ==== Sys2Proof/Laws/Decode.lean ====
section
/-! SUPPORT. The fields of a word as numbers, and the words of the formats as numbers: the bridge from the bit slices of
the decoder and the encoder to arithmetic. -/

namespace Sys2Proof

theorem opNibble_toNat (w : Word) : (opNibble w).toNat = w.toNat / 4096 := by
  have := w.isLt
  simp only [opNibble, BitVec.extractLsb'_toNat, Nat.shiftRight_eq_div_pow]
  omega

theorem fieldX_val (w : Word) : (fieldX w).val = w.toNat / 256 % 16 := by
  have : (fieldX w).val = (w.extractLsb' 8 4).toNat := rfl
  rw [this]
  simp [BitVec.extractLsb'_toNat, Nat.shiftRight_eq_div_pow]

theorem fieldY_val (w : Word) : (fieldY w).val = w.toNat / 16 % 16 := by
  have : (fieldY w).val = (w.extractLsb' 4 4).toNat := rfl
  rw [this]
  simp [BitVec.extractLsb'_toNat, Nat.shiftRight_eq_div_pow]

theorem fieldN_toNat (w : Word) : (fieldN w).toNat = w.toNat % 16 := by
  simp [fieldN, BitVec.extractLsb'_toNat]

theorem fieldKk_toNat (w : Word) : (fieldKk w).toNat = w.toNat % 256 := by
  simp [fieldKk, BitVec.extractLsb'_toNat]

theorem fieldNnn_toNat (w : Word) : (fieldNnn w).toNat = w.toNat % 4096 := by
  simp [fieldNnn, BitVec.extractLsb'_toNat]

theorem highByte_toNat (w : Word) : (highByte w).toNat = w.toNat / 256 := by
  have := w.isLt
  simp only [highByte, BitVec.extractLsb'_toNat, Nat.shiftRight_eq_div_pow]
  omega

theorem lowByte_toNat (w : Word) : (lowByte w).toNat = w.toNat % 256 := by
  simp [lowByte, BitVec.extractLsb'_toNat]

theorem append_toNat {m n : Nat} (a : BitVec m) (b : BitVec n) : (a ++ b).toNat = a.toNat * 2 ^ n + b.toNat := by
  rw [BitVec.toNat_append, Nat.shiftLeft_eq, Nat.mul_comm, ← Nat.two_pow_add_eq_or_of_lt b.isLt]

theorem wordOfBytes_toNat (hi lo : Byte) : (wordOfBytes hi lo).toNat = 256 * hi.toNat + lo.toNat := by
  simp only [wordOfBytes, append_toNat]
  omega

theorem formatNnn_toNat (op : Nibble) (nnn : Addr12) : (formatNnn op nnn).toNat = 4096 * op.toNat + nnn.toNat := by
  simp only [formatNnn, append_toNat]
  omega

theorem formatXkk_toNat (op : Nibble) (x : Reg) (kk : Byte) :
    (formatXkk op x kk).toNat = 4096 * op.toNat + 256 * x.val + kk.toNat := by
  have : (BitVec.ofFin (w := 4) x).toNat = x.val := rfl
  simp only [formatXkk, append_toNat, this]
  omega

theorem formatXyn_toNat (op : Nibble) (x y : Reg) (n : Nibble) :
    (formatXyn op x y n).toNat = 4096 * op.toNat + 256 * x.val + 16 * y.val + n.toNat := by
  have hx : (BitVec.ofFin (w := 4) x).toNat = x.val := rfl
  have hy : (BitVec.ofFin (w := 4) y).toNat = y.val := rfl
  simp only [formatXyn, append_toNat, hx, hy]
  omega

/-- A byte pair of a word gives the word back. -/
theorem wordOfBytes_high_low (w : Word) : wordOfBytes (highByte w) (lowByte w) = w := by
  apply BitVec.eq_of_toNat_eq
  rw [wordOfBytes_toNat, highByte_toNat, lowByte_toNat]
  omega

/-! ### Decoding the words of a format: the opcode selects the arm, the fields come back -/

section
variable (op : Nibble) (x y : Reg) (n : Nibble) (kk : Byte) (nnn : Addr12)

theorem opNibble_formatNnn : opNibble (formatNnn op nnn) = op := by
  apply BitVec.eq_of_toNat_eq
  rw [opNibble_toNat, formatNnn_toNat]
  omega

theorem opNibble_formatXkk : opNibble (formatXkk op x kk) = op := by
  apply BitVec.eq_of_toNat_eq
  rw [opNibble_toNat, formatXkk_toNat]
  omega

theorem opNibble_formatXyn : opNibble (formatXyn op x y n) = op := by
  apply BitVec.eq_of_toNat_eq
  rw [opNibble_toNat, formatXyn_toNat]
  omega

theorem fieldNnn_formatNnn : fieldNnn (formatNnn op nnn) = nnn := by
  apply BitVec.eq_of_toNat_eq
  rw [fieldNnn_toNat, formatNnn_toNat]
  omega

theorem fieldX_formatXkk : fieldX (formatXkk op x kk) = x := by
  apply Fin.ext
  rw [fieldX_val, formatXkk_toNat]
  omega

theorem fieldKk_formatXkk : fieldKk (formatXkk op x kk) = kk := by
  apply BitVec.eq_of_toNat_eq
  rw [fieldKk_toNat, formatXkk_toNat]
  omega

theorem fieldX_formatXyn : fieldX (formatXyn op x y n) = x := by
  apply Fin.ext
  rw [fieldX_val, formatXyn_toNat]
  omega

theorem fieldY_formatXyn : fieldY (formatXyn op x y n) = y := by
  apply Fin.ext
  rw [fieldY_val, formatXyn_toNat]
  omega

theorem fieldN_formatXyn : fieldN (formatXyn op x y n) = n := by
  apply BitVec.eq_of_toNat_eq
  rw [fieldN_toNat, formatXyn_toNat]
  omega

end

/-- The word of a well-formed SYS is neither CLS nor RET (30_encoding.md R104). -/
theorem decodeGroup0_sys (nnn : Addr12) (h : (Instr.sys nnn).wf = true) :
    decodeGroup0 (formatNnn 0x0#4 nnn) = .sys nnn := by
  have hne : ∀ k : Addr12, nnn ≠ k → formatNnn 0x0#4 nnn ≠ formatNnn 0x0#4 k := by
    intro k hk heq
    apply hk
    rw [← fieldNnn_formatNnn 0x0#4 nnn, heq, fieldNnn_formatNnn]
  simp only [Instr.wf, Bool.and_eq_true, bne_iff_ne, ne_eq] at h
  have h1 : formatNnn 0x0#4 nnn ≠ 0x00E0#16 := hne 0x0E0#12 h.1
  have h2 : formatNnn 0x0#4 nnn ≠ 0x00EE#16 := hne 0x0EE#12 h.2
  simp [decodeGroup0, h1, h2, fieldNnn_formatNnn]

/-- A word of format NNN, written as a number, is the word of the format. -/
theorem ofNat_formatNnn (op : Nibble) (nnn : Addr12) :
    BitVec.ofNat 16 (4096 * op.toNat + nnn.toNat) = formatNnn op nnn := by
  apply BitVec.eq_of_toNat_eq
  rw [formatNnn_toNat, BitVec.toNat_ofNat]
  omega

/-- A word of format XKK or X, written as a number, is the word of the format. -/
theorem ofNat_formatXkk (op : Nibble) (x : Reg) (kk : Byte) :
    BitVec.ofNat 16 (4096 * op.toNat + 256 * x.val + kk.toNat) = formatXkk op x kk := by
  apply BitVec.eq_of_toNat_eq
  rw [formatXkk_toNat, BitVec.toNat_ofNat]
  omega

/-- A word of format XY or XYN, written as a number, is the word of the format. -/
theorem ofNat_formatXyn (op : Nibble) (x y : Reg) (n : Nibble) :
    BitVec.ofNat 16 (4096 * op.toNat + 256 * x.val + 16 * y.val + n.toNat) = formatXyn op x y n := by
  apply BitVec.eq_of_toNat_eq
  rw [formatXyn_toNat, BitVec.toNat_ofNat]
  omega

end Sys2Proof
end

