-- ==== Sys2Proof/Laws/Memory.lean ====
section
/-! SUPPORT. The laws of the RAM: a read after a write, and that every operation keeps the canonical form. -/

namespace Sys2Proof.Machine

variable (font : Font)

/-- The cell put in front reads as its byte, listed or not. -/
theorem Memory.read_consCell (a : Nat) (b : Byte) (rest : Memory) (a' : Nat)
    (hrest : ∀ c ∈ rest, a < c.1) :
    Memory.read font (Memory.consCell font a b rest) a' = if a' = a then b else Memory.read font rest a' := by
  unfold Memory.consCell
  split
  · rename_i hb
    split
    · rename_i ha
      subst ha
      rw [hb]
      clear hb
      induction rest with
      | nil => rfl
      | cons c rest ih =>
        have hc := hrest c (by simp)
        have : c.1 ≠ a' := by omega
        simp only [Memory.read, this, if_false]
        exact ih fun d hd => hrest d (by simp [hd])
    · rfl
  · simp only [Memory.read, eq_comm]

/-- A read after a write to a memory with rising addresses (20_memory.md R78): the written address reads as the byte,
every other address as before. -/
theorem Memory.read_write (m : Memory) (hm : m.Pairwise (fun c d => c.1 < d.1)) (a : Nat) (b : Byte) (a' : Nat) :
    Memory.read font (Memory.write font m a b) a' = if a' = a then b else Memory.read font m a' := by
  induction m with
  | nil => exact Memory.read_consCell font a b [] a' (by simp)
  | cons c rest ih =>
    obtain ⟨hc, hrest⟩ := List.pairwise_cons.mp hm
    unfold Memory.write
    split
    · rename_i hlt
      refine Memory.read_consCell font a b _ a' fun d hd => ?_
      rcases List.mem_cons.mp hd with rfl | hd
      · exact hlt
      · exact lt_trans hlt (hc d hd)
    · split
      · rename_i heq
        rw [Memory.read_consCell font a b rest a' fun d hd => heq ▸ hc d hd]
        by_cases h : a' = a
        · simp [h]
        · have : c.1 ≠ a' := by omega
          simp [h, Memory.read, this]
      · rename_i hne
        simp only [Memory.read]
        rw [ih hrest]
        by_cases h : c.1 = a'
        · have : a' ≠ a := by omega
          simp [h, this]
        · simp [h]

/-- A cell put in front comes from the pair or from the rest. -/
theorem Memory.mem_consCell {a : Nat} {b : Byte} {rest : Memory} {c : Host.Cell}
    (h : c ∈ Memory.consCell font a b rest) : (c = (a, b) ∧ b ≠ background font a) ∨ c ∈ rest := by
  unfold Memory.consCell at h
  split at h
  · exact .inr h
  · rename_i hb
    rcases List.mem_cons.mp h with rfl | h
    · exact .inl ⟨rfl, hb⟩
    · exact .inr h

/-- A cell of the memory after a write is the written one or was there. -/
theorem Memory.mem_write {m : Memory} {a : Nat} {b : Byte} {c : Host.Cell}
    (h : c ∈ Memory.write font m a b) : (c = (a, b) ∧ b ≠ background font a) ∨ c ∈ m := by
  induction m with
  | nil => exact Memory.mem_consCell font h
  | cons d rest ih =>
    unfold Memory.write at h
    split at h
    · exact Memory.mem_consCell font h
    · split at h
      · exact (Memory.mem_consCell font h).imp_right (List.mem_cons_of_mem d)
      · rcases List.mem_cons.mp h with rfl | h
        · exact .inr (by simp)
        · exact (ih h).imp_right (List.mem_cons_of_mem d)

/-- A cell below the rest, put in front, keeps the addresses rising. -/
theorem Memory.consCell_pairwise {a : Nat} {b : Byte} {rest : Memory}
    (hrest : rest.Pairwise (fun c d => c.1 < d.1)) (ha : ∀ c ∈ rest, a < c.1) :
    (Memory.consCell font a b rest).Pairwise (fun c d => c.1 < d.1) := by
  unfold Memory.consCell
  split
  · exact hrest
  · exact List.pairwise_cons.mpr ⟨ha, hrest⟩

/-- A write keeps the addresses rising. -/
theorem Memory.write_pairwise {m : Memory} (hm : m.Pairwise (fun c d => c.1 < d.1)) (a : Nat) (b : Byte) :
    (Memory.write font m a b).Pairwise (fun c d => c.1 < d.1) := by
  induction m with
  | nil => exact Memory.consCell_pairwise font .nil (by simp)
  | cons d rest ih =>
    obtain ⟨hd, hrest⟩ := List.pairwise_cons.mp hm
    unfold Memory.write
    split
    · rename_i hlt
      refine Memory.consCell_pairwise font hm fun c hc => ?_
      rcases List.mem_cons.mp hc with rfl | hc
      · exact hlt
      · exact lt_trans hlt (hd c hc)
    · split
      · rename_i heq
        exact Memory.consCell_pairwise font hrest fun c hc => heq ▸ hd c hc
      · rename_i hge hne
        refine List.pairwise_cons.mpr ⟨fun c hc => ?_, ih hrest⟩
        rcases Memory.mem_write font hc with ⟨rfl, -⟩ | hc
        · show d.1 < a
          omega
        · exact hd c hc

/-- A write inside the RAM keeps the canonical form. -/
theorem Memory.write_wf {m : Memory} (hm : Memory.wf font m) {a : Nat} (ha : a < ramSize) (b : Byte) :
    Memory.wf font (Memory.write font m a b) := by
  refine ⟨Memory.write_pairwise font hm.1 a b, fun c hc => ?_⟩
  rcases Memory.mem_write font hc with ⟨rfl, hb⟩ | hc
  · exact ⟨ha, hb⟩
  · exact hm.2 c hc

/-- Storing bytes keeps the addresses rising. -/
theorem Memory.writeBytes_pairwise {m : Memory} (hm : m.Pairwise (fun c d => c.1 < d.1)) (a : Nat) (bs : List Byte) :
    (Memory.writeBytes font m a bs).Pairwise (fun c d => c.1 < d.1) := by
  induction bs generalizing m a with
  | nil => exact hm
  | cons b bs ih => exact ih (Memory.write_pairwise font hm a b) (a + 1)

/-- Storing bytes inside the RAM keeps the canonical form. -/
theorem Memory.writeBytes_wf {m : Memory} (hm : Memory.wf font m) {a : Nat} {bs : List Byte}
    (ha : a + bs.length ≤ ramSize) : Memory.wf font (Memory.writeBytes font m a bs) := by
  induction bs generalizing m a with
  | nil => exact hm
  | cons b bs ih =>
    simp only [List.length_cons] at ha
    exact ih (Memory.write_wf font hm (by omega) b) (by omega)

/-- A read after a store of bytes: the stored byte inside, as before outside. -/
theorem Memory.read_writeBytes {m : Memory} (hm : m.Pairwise (fun c d => c.1 < d.1)) (a : Nat) (bs : List Byte)
    (a' : Nat) :
    Memory.read font (Memory.writeBytes font m a bs) a' =
      if h : a ≤ a' ∧ a' - a < bs.length then bs[a' - a] else Memory.read font m a' := by
  induction bs generalizing m a with
  | nil => simp [Memory.writeBytes]
  | cons b bs ih =>
    rw [Memory.writeBytes, ih (Memory.write_pairwise font hm a b), Memory.read_write font m hm]
    by_cases h0 : a' = a
    · subst h0
      have : ¬ (a' + 1 ≤ a' ∧ a' - (a' + 1) < bs.length) := by omega
      simp
    · by_cases h1 : a + 1 ≤ a' ∧ a' - (a + 1) < bs.length
      · have h2 : a ≤ a' ∧ a' - a < (b :: bs).length := by
          simp only [List.length_cons]
          omega
        have h3 : a' - a = (a' - (a + 1)) + 1 := by omega
        simp only [h1, h2, and_self, dif_pos]
        simp only [h3, List.getElem_cons_succ]
      · have h2 : ¬ (a ≤ a' ∧ a' - a < (b :: bs).length) := by
          simp only [List.length_cons]
          omega
        rw [dif_neg h1, dif_neg h2, if_neg h0]

/-- The bytes read are the bytes at the successive addresses. -/
theorem Memory.readBytes_eq (m : Memory) (a n : Nat) :
    Memory.readBytes font m a n = (List.range n).map fun k => Memory.read font m (a + k) := by
  induction n generalizing a with
  | zero => rfl
  | succ n ih =>
    rw [Memory.readBytes, ih, List.range_succ_eq_map]
    simp [Function.comp_def, Nat.add_assoc, Nat.add_comm 1]

@[simp] theorem Memory.length_readBytes (m : Memory) (a n : Nat) : (Memory.readBytes font m a n).length = n := by
  simp [Memory.readBytes_eq]

/-- The k-th byte read. -/
theorem Memory.getElem_readBytes (m : Memory) (a n k : Nat) (h : k < (Memory.readBytes font m a n).length) :
    (Memory.readBytes font m a n)[k] = Memory.read font m (a + k) := by
  simp [Memory.readBytes_eq]

end Sys2Proof.Machine
end

