-- ==== Sys2Proof/Laws/State.lean ====
section
/-! SUPPORT. What each named update of the state makes of each field: one lemma per field per update, so that no later
proof unfolds an update. -/

namespace Sys2Proof.Machine

variable (s : State)

/-! ### writeReg -/

@[simp] theorem State.writeReg_v (x : Reg) (b : Byte) : (s.writeReg x b).v = s.v.set x b := rfl
@[simp] theorem State.writeReg_pc (x : Reg) (b : Byte) : (s.writeReg x b).pc = s.pc := rfl
@[simp] theorem State.writeReg_i (x : Reg) (b : Byte) : (s.writeReg x b).i = s.i := rfl
@[simp] theorem State.writeReg_sp (x : Reg) (b : Byte) : (s.writeReg x b).sp = s.sp := rfl
@[simp] theorem State.writeReg_stack (x : Reg) (b : Byte) : (s.writeReg x b).stack = s.stack := rfl
@[simp] theorem State.writeReg_dt (x : Reg) (b : Byte) : (s.writeReg x b).dt = s.dt := rfl
@[simp] theorem State.writeReg_st (x : Reg) (b : Byte) : (s.writeReg x b).st = s.st := rfl
@[simp] theorem State.writeReg_fb (x : Reg) (b : Byte) : (s.writeReg x b).fb = s.fb := rfl
@[simp] theorem State.writeReg_mem (x : Reg) (b : Byte) : (s.writeReg x b).mem = s.mem := rfl
@[simp] theorem State.writeReg_mode (x : Reg) (b : Byte) : (s.writeReg x b).mode = s.mode := rfl
@[simp] theorem State.writeReg_tickPending (x : Reg) (b : Byte) : (s.writeReg x b).tickPending = s.tickPending := rfl
@[simp] theorem State.writeReg_toneOn (x : Reg) (b : Byte) : (s.writeReg x b).toneOn = s.toneOn := rfl
@[simp] theorem State.writeReg_trace (x : Reg) (b : Byte) : (s.writeReg x b).trace = s.trace := rfl
@[simp] theorem State.writeReg_params (x : Reg) (b : Byte) : (s.writeReg x b).params = s.params := rfl
@[simp] theorem State.writeReg_runStarted (x : Reg) (b : Byte) : (s.writeReg x b).runStarted = s.runStarted := rfl
@[simp] theorem State.writeReg_pins (x : Reg) (b : Byte) : (s.writeReg x b).pins = s.pins := rfl
@[simp] theorem State.writeReg_inputs (x : Reg) (b : Byte) : (s.writeReg x b).inputs = s.inputs := rfl
@[simp] theorem State.writeReg_inputIndex (x : Reg) (b : Byte) : (s.writeReg x b).inputIndex = s.inputIndex := rfl

/-! ### advance -/

@[simp] theorem State.advance_v : (s.advance).v = s.v := rfl
@[simp] theorem State.advance_pc : (s.advance).pc = s.pc + 2 := rfl
@[simp] theorem State.advance_i : (s.advance).i = s.i := rfl
@[simp] theorem State.advance_sp : (s.advance).sp = s.sp := rfl
@[simp] theorem State.advance_stack : (s.advance).stack = s.stack := rfl
@[simp] theorem State.advance_dt : (s.advance).dt = s.dt := rfl
@[simp] theorem State.advance_st : (s.advance).st = s.st := rfl
@[simp] theorem State.advance_fb : (s.advance).fb = s.fb := rfl
@[simp] theorem State.advance_mem : (s.advance).mem = s.mem := rfl
@[simp] theorem State.advance_mode : (s.advance).mode = s.mode := rfl
@[simp] theorem State.advance_tickPending : (s.advance).tickPending = s.tickPending := rfl
@[simp] theorem State.advance_toneOn : (s.advance).toneOn = s.toneOn := rfl
@[simp] theorem State.advance_trace : (s.advance).trace = s.trace := rfl
@[simp] theorem State.advance_params : (s.advance).params = s.params := rfl
@[simp] theorem State.advance_runStarted : (s.advance).runStarted = s.runStarted := rfl
@[simp] theorem State.advance_pins : (s.advance).pins = s.pins := rfl
@[simp] theorem State.advance_inputs : (s.advance).inputs = s.inputs := rfl
@[simp] theorem State.advance_inputIndex : (s.advance).inputIndex = s.inputIndex := rfl

/-! ### jumpTo -/

@[simp] theorem State.jumpTo_v (w : Word) : (s.jumpTo w).v = s.v := rfl
@[simp] theorem State.jumpTo_pc (w : Word) : (s.jumpTo w).pc = w := rfl
@[simp] theorem State.jumpTo_i (w : Word) : (s.jumpTo w).i = s.i := rfl
@[simp] theorem State.jumpTo_sp (w : Word) : (s.jumpTo w).sp = s.sp := rfl
@[simp] theorem State.jumpTo_stack (w : Word) : (s.jumpTo w).stack = s.stack := rfl
@[simp] theorem State.jumpTo_dt (w : Word) : (s.jumpTo w).dt = s.dt := rfl
@[simp] theorem State.jumpTo_st (w : Word) : (s.jumpTo w).st = s.st := rfl
@[simp] theorem State.jumpTo_fb (w : Word) : (s.jumpTo w).fb = s.fb := rfl
@[simp] theorem State.jumpTo_mem (w : Word) : (s.jumpTo w).mem = s.mem := rfl
@[simp] theorem State.jumpTo_mode (w : Word) : (s.jumpTo w).mode = s.mode := rfl
@[simp] theorem State.jumpTo_tickPending (w : Word) : (s.jumpTo w).tickPending = s.tickPending := rfl
@[simp] theorem State.jumpTo_toneOn (w : Word) : (s.jumpTo w).toneOn = s.toneOn := rfl
@[simp] theorem State.jumpTo_trace (w : Word) : (s.jumpTo w).trace = s.trace := rfl
@[simp] theorem State.jumpTo_params (w : Word) : (s.jumpTo w).params = s.params := rfl
@[simp] theorem State.jumpTo_runStarted (w : Word) : (s.jumpTo w).runStarted = s.runStarted := rfl
@[simp] theorem State.jumpTo_pins (w : Word) : (s.jumpTo w).pins = s.pins := rfl
@[simp] theorem State.jumpTo_inputs (w : Word) : (s.jumpTo w).inputs = s.inputs := rfl
@[simp] theorem State.jumpTo_inputIndex (w : Word) : (s.jumpTo w).inputIndex = s.inputIndex := rfl

/-! ### skipWhen -/

@[simp] theorem State.skipWhen_v (c : Bool) : (s.skipWhen c).v = s.v := rfl
@[simp] theorem State.skipWhen_pc (c : Bool) : (s.skipWhen c).pc = s.pc + if c then 4 else 2 := rfl
@[simp] theorem State.skipWhen_i (c : Bool) : (s.skipWhen c).i = s.i := rfl
@[simp] theorem State.skipWhen_sp (c : Bool) : (s.skipWhen c).sp = s.sp := rfl
@[simp] theorem State.skipWhen_stack (c : Bool) : (s.skipWhen c).stack = s.stack := rfl
@[simp] theorem State.skipWhen_dt (c : Bool) : (s.skipWhen c).dt = s.dt := rfl
@[simp] theorem State.skipWhen_st (c : Bool) : (s.skipWhen c).st = s.st := rfl
@[simp] theorem State.skipWhen_fb (c : Bool) : (s.skipWhen c).fb = s.fb := rfl
@[simp] theorem State.skipWhen_mem (c : Bool) : (s.skipWhen c).mem = s.mem := rfl
@[simp] theorem State.skipWhen_mode (c : Bool) : (s.skipWhen c).mode = s.mode := rfl
@[simp] theorem State.skipWhen_tickPending (c : Bool) : (s.skipWhen c).tickPending = s.tickPending := rfl
@[simp] theorem State.skipWhen_toneOn (c : Bool) : (s.skipWhen c).toneOn = s.toneOn := rfl
@[simp] theorem State.skipWhen_trace (c : Bool) : (s.skipWhen c).trace = s.trace := rfl
@[simp] theorem State.skipWhen_params (c : Bool) : (s.skipWhen c).params = s.params := rfl
@[simp] theorem State.skipWhen_runStarted (c : Bool) : (s.skipWhen c).runStarted = s.runStarted := rfl
@[simp] theorem State.skipWhen_pins (c : Bool) : (s.skipWhen c).pins = s.pins := rfl
@[simp] theorem State.skipWhen_inputs (c : Bool) : (s.skipWhen c).inputs = s.inputs := rfl
@[simp] theorem State.skipWhen_inputIndex (c : Bool) : (s.skipWhen c).inputIndex = s.inputIndex := rfl

/-! ### writeI -/

@[simp] theorem State.writeI_v (w : Word) : (s.writeI w).v = s.v := rfl
@[simp] theorem State.writeI_pc (w : Word) : (s.writeI w).pc = s.pc := rfl
@[simp] theorem State.writeI_i (w : Word) : (s.writeI w).i = w := rfl
@[simp] theorem State.writeI_sp (w : Word) : (s.writeI w).sp = s.sp := rfl
@[simp] theorem State.writeI_stack (w : Word) : (s.writeI w).stack = s.stack := rfl
@[simp] theorem State.writeI_dt (w : Word) : (s.writeI w).dt = s.dt := rfl
@[simp] theorem State.writeI_st (w : Word) : (s.writeI w).st = s.st := rfl
@[simp] theorem State.writeI_fb (w : Word) : (s.writeI w).fb = s.fb := rfl
@[simp] theorem State.writeI_mem (w : Word) : (s.writeI w).mem = s.mem := rfl
@[simp] theorem State.writeI_mode (w : Word) : (s.writeI w).mode = s.mode := rfl
@[simp] theorem State.writeI_tickPending (w : Word) : (s.writeI w).tickPending = s.tickPending := rfl
@[simp] theorem State.writeI_toneOn (w : Word) : (s.writeI w).toneOn = s.toneOn := rfl
@[simp] theorem State.writeI_trace (w : Word) : (s.writeI w).trace = s.trace := rfl
@[simp] theorem State.writeI_params (w : Word) : (s.writeI w).params = s.params := rfl
@[simp] theorem State.writeI_runStarted (w : Word) : (s.writeI w).runStarted = s.runStarted := rfl
@[simp] theorem State.writeI_pins (w : Word) : (s.writeI w).pins = s.pins := rfl
@[simp] theorem State.writeI_inputs (w : Word) : (s.writeI w).inputs = s.inputs := rfl
@[simp] theorem State.writeI_inputIndex (w : Word) : (s.writeI w).inputIndex = s.inputIndex := rfl

/-! ### storeBytes -/

@[simp] theorem State.storeBytes_v (a : Nat) (bs : List Byte) : (s.storeBytes a bs).v = s.v := rfl
@[simp] theorem State.storeBytes_pc (a : Nat) (bs : List Byte) : (s.storeBytes a bs).pc = s.pc := rfl
@[simp] theorem State.storeBytes_i (a : Nat) (bs : List Byte) : (s.storeBytes a bs).i = s.i := rfl
@[simp] theorem State.storeBytes_sp (a : Nat) (bs : List Byte) : (s.storeBytes a bs).sp = s.sp := rfl
@[simp] theorem State.storeBytes_stack (a : Nat) (bs : List Byte) : (s.storeBytes a bs).stack = s.stack := rfl
@[simp] theorem State.storeBytes_dt (a : Nat) (bs : List Byte) : (s.storeBytes a bs).dt = s.dt := rfl
@[simp] theorem State.storeBytes_st (a : Nat) (bs : List Byte) : (s.storeBytes a bs).st = s.st := rfl
@[simp] theorem State.storeBytes_fb (a : Nat) (bs : List Byte) : (s.storeBytes a bs).fb = s.fb := rfl
@[simp] theorem State.storeBytes_mem (a : Nat) (bs : List Byte) : (s.storeBytes a bs).mem = Memory.writeBytes s.params.font s.mem a bs := rfl
@[simp] theorem State.storeBytes_mode (a : Nat) (bs : List Byte) : (s.storeBytes a bs).mode = s.mode := rfl
@[simp] theorem State.storeBytes_tickPending (a : Nat) (bs : List Byte) : (s.storeBytes a bs).tickPending = s.tickPending := rfl
@[simp] theorem State.storeBytes_toneOn (a : Nat) (bs : List Byte) : (s.storeBytes a bs).toneOn = s.toneOn := rfl
@[simp] theorem State.storeBytes_trace (a : Nat) (bs : List Byte) : (s.storeBytes a bs).trace = s.trace := rfl
@[simp] theorem State.storeBytes_params (a : Nat) (bs : List Byte) : (s.storeBytes a bs).params = s.params := rfl
@[simp] theorem State.storeBytes_runStarted (a : Nat) (bs : List Byte) : (s.storeBytes a bs).runStarted = s.runStarted := rfl
@[simp] theorem State.storeBytes_pins (a : Nat) (bs : List Byte) : (s.storeBytes a bs).pins = s.pins := rfl
@[simp] theorem State.storeBytes_inputs (a : Nat) (bs : List Byte) : (s.storeBytes a bs).inputs = s.inputs := rfl
@[simp] theorem State.storeBytes_inputIndex (a : Nat) (bs : List Byte) : (s.storeBytes a bs).inputIndex = s.inputIndex := rfl

/-! ### loadRegsUpTo -/

@[simp] theorem State.loadRegsUpTo_pc (x : Reg) (a : Nat) : (s.loadRegsUpTo x a).pc = s.pc := rfl
@[simp] theorem State.loadRegsUpTo_i (x : Reg) (a : Nat) : (s.loadRegsUpTo x a).i = s.i := rfl
@[simp] theorem State.loadRegsUpTo_sp (x : Reg) (a : Nat) : (s.loadRegsUpTo x a).sp = s.sp := rfl
@[simp] theorem State.loadRegsUpTo_stack (x : Reg) (a : Nat) : (s.loadRegsUpTo x a).stack = s.stack := rfl
@[simp] theorem State.loadRegsUpTo_dt (x : Reg) (a : Nat) : (s.loadRegsUpTo x a).dt = s.dt := rfl
@[simp] theorem State.loadRegsUpTo_st (x : Reg) (a : Nat) : (s.loadRegsUpTo x a).st = s.st := rfl
@[simp] theorem State.loadRegsUpTo_fb (x : Reg) (a : Nat) : (s.loadRegsUpTo x a).fb = s.fb := rfl
@[simp] theorem State.loadRegsUpTo_mem (x : Reg) (a : Nat) : (s.loadRegsUpTo x a).mem = s.mem := rfl
@[simp] theorem State.loadRegsUpTo_mode (x : Reg) (a : Nat) : (s.loadRegsUpTo x a).mode = s.mode := rfl
@[simp] theorem State.loadRegsUpTo_tickPending (x : Reg) (a : Nat) : (s.loadRegsUpTo x a).tickPending = s.tickPending := rfl
@[simp] theorem State.loadRegsUpTo_toneOn (x : Reg) (a : Nat) : (s.loadRegsUpTo x a).toneOn = s.toneOn := rfl
@[simp] theorem State.loadRegsUpTo_trace (x : Reg) (a : Nat) : (s.loadRegsUpTo x a).trace = s.trace := rfl
@[simp] theorem State.loadRegsUpTo_params (x : Reg) (a : Nat) : (s.loadRegsUpTo x a).params = s.params := rfl
@[simp] theorem State.loadRegsUpTo_runStarted (x : Reg) (a : Nat) : (s.loadRegsUpTo x a).runStarted = s.runStarted := rfl
@[simp] theorem State.loadRegsUpTo_pins (x : Reg) (a : Nat) : (s.loadRegsUpTo x a).pins = s.pins := rfl
@[simp] theorem State.loadRegsUpTo_inputs (x : Reg) (a : Nat) : (s.loadRegsUpTo x a).inputs = s.inputs := rfl
@[simp] theorem State.loadRegsUpTo_inputIndex (x : Reg) (a : Nat) : (s.loadRegsUpTo x a).inputIndex = s.inputIndex := rfl

/-! ### emit -/

@[simp] theorem State.emit_v (e : PortEvent) : (s.emit e).v = s.v := rfl
@[simp] theorem State.emit_pc (e : PortEvent) : (s.emit e).pc = s.pc := rfl
@[simp] theorem State.emit_i (e : PortEvent) : (s.emit e).i = s.i := rfl
@[simp] theorem State.emit_sp (e : PortEvent) : (s.emit e).sp = s.sp := rfl
@[simp] theorem State.emit_stack (e : PortEvent) : (s.emit e).stack = s.stack := rfl
@[simp] theorem State.emit_dt (e : PortEvent) : (s.emit e).dt = s.dt := rfl
@[simp] theorem State.emit_st (e : PortEvent) : (s.emit e).st = s.st := rfl
@[simp] theorem State.emit_fb (e : PortEvent) : (s.emit e).fb = s.fb := rfl
@[simp] theorem State.emit_mem (e : PortEvent) : (s.emit e).mem = s.mem := rfl
@[simp] theorem State.emit_mode (e : PortEvent) : (s.emit e).mode = s.mode := rfl
@[simp] theorem State.emit_tickPending (e : PortEvent) : (s.emit e).tickPending = s.tickPending := rfl
@[simp] theorem State.emit_toneOn (e : PortEvent) : (s.emit e).toneOn = s.toneOn := rfl
@[simp] theorem State.emit_trace (e : PortEvent) : (s.emit e).trace = s.trace ++ [e] := rfl
@[simp] theorem State.emit_params (e : PortEvent) : (s.emit e).params = s.params := rfl
@[simp] theorem State.emit_runStarted (e : PortEvent) : (s.emit e).runStarted = s.runStarted := rfl
@[simp] theorem State.emit_pins (e : PortEvent) : (s.emit e).pins = s.pins := rfl
@[simp] theorem State.emit_inputs (e : PortEvent) : (s.emit e).inputs = s.inputs := rfl
@[simp] theorem State.emit_inputIndex (e : PortEvent) : (s.emit e).inputIndex = s.inputIndex := rfl

/-! ### presentFrame -/

@[simp] theorem State.presentFrame_v : (s.presentFrame).v = s.v := rfl
@[simp] theorem State.presentFrame_pc : (s.presentFrame).pc = s.pc := rfl
@[simp] theorem State.presentFrame_i : (s.presentFrame).i = s.i := rfl
@[simp] theorem State.presentFrame_sp : (s.presentFrame).sp = s.sp := rfl
@[simp] theorem State.presentFrame_stack : (s.presentFrame).stack = s.stack := rfl
@[simp] theorem State.presentFrame_dt : (s.presentFrame).dt = s.dt := rfl
@[simp] theorem State.presentFrame_st : (s.presentFrame).st = s.st := rfl
@[simp] theorem State.presentFrame_fb : (s.presentFrame).fb = s.fb := rfl
@[simp] theorem State.presentFrame_mem : (s.presentFrame).mem = s.mem := rfl
@[simp] theorem State.presentFrame_mode : (s.presentFrame).mode = s.mode := rfl
@[simp] theorem State.presentFrame_tickPending : (s.presentFrame).tickPending = s.tickPending := rfl
@[simp] theorem State.presentFrame_toneOn : (s.presentFrame).toneOn = s.toneOn := rfl
@[simp] theorem State.presentFrame_trace : (s.presentFrame).trace = s.trace ++ [.presentFrame s.fb] := rfl
@[simp] theorem State.presentFrame_params : (s.presentFrame).params = s.params := rfl
@[simp] theorem State.presentFrame_runStarted : (s.presentFrame).runStarted = s.runStarted := rfl
@[simp] theorem State.presentFrame_pins : (s.presentFrame).pins = s.pins := rfl
@[simp] theorem State.presentFrame_inputs : (s.presentFrame).inputs = s.inputs := rfl
@[simp] theorem State.presentFrame_inputIndex : (s.presentFrame).inputIndex = s.inputIndex := rfl

/-! ### startTone -/

@[simp] theorem State.startTone_v : (s.startTone).v = s.v := rfl
@[simp] theorem State.startTone_pc : (s.startTone).pc = s.pc := rfl
@[simp] theorem State.startTone_i : (s.startTone).i = s.i := rfl
@[simp] theorem State.startTone_sp : (s.startTone).sp = s.sp := rfl
@[simp] theorem State.startTone_stack : (s.startTone).stack = s.stack := rfl
@[simp] theorem State.startTone_dt : (s.startTone).dt = s.dt := rfl
@[simp] theorem State.startTone_st : (s.startTone).st = s.st := rfl
@[simp] theorem State.startTone_fb : (s.startTone).fb = s.fb := rfl
@[simp] theorem State.startTone_mem : (s.startTone).mem = s.mem := rfl
@[simp] theorem State.startTone_mode : (s.startTone).mode = s.mode := rfl
@[simp] theorem State.startTone_tickPending : (s.startTone).tickPending = s.tickPending := rfl
@[simp] theorem State.startTone_toneOn : (s.startTone).toneOn = true := rfl
@[simp] theorem State.startTone_trace : (s.startTone).trace = s.trace ++ [.startTone] := rfl
@[simp] theorem State.startTone_params : (s.startTone).params = s.params := rfl
@[simp] theorem State.startTone_runStarted : (s.startTone).runStarted = s.runStarted := rfl
@[simp] theorem State.startTone_pins : (s.startTone).pins = s.pins := rfl
@[simp] theorem State.startTone_inputs : (s.startTone).inputs = s.inputs := rfl
@[simp] theorem State.startTone_inputIndex : (s.startTone).inputIndex = s.inputIndex := rfl

/-! ### raise -/

@[simp] theorem State.raise_v (k : FaultKind) (w : Option Word) : (s.raise k w).v = s.v := rfl
@[simp] theorem State.raise_pc (k : FaultKind) (w : Option Word) : (s.raise k w).pc = s.pc := rfl
@[simp] theorem State.raise_i (k : FaultKind) (w : Option Word) : (s.raise k w).i = s.i := rfl
@[simp] theorem State.raise_sp (k : FaultKind) (w : Option Word) : (s.raise k w).sp = s.sp := rfl
@[simp] theorem State.raise_stack (k : FaultKind) (w : Option Word) : (s.raise k w).stack = s.stack := rfl
@[simp] theorem State.raise_dt (k : FaultKind) (w : Option Word) : (s.raise k w).dt = s.dt := rfl
@[simp] theorem State.raise_st (k : FaultKind) (w : Option Word) : (s.raise k w).st = s.st := rfl
@[simp] theorem State.raise_fb (k : FaultKind) (w : Option Word) : (s.raise k w).fb = s.fb := rfl
@[simp] theorem State.raise_mem (k : FaultKind) (w : Option Word) : (s.raise k w).mem = s.mem := rfl
@[simp] theorem State.raise_mode (k : FaultKind) (w : Option Word) : (s.raise k w).mode = .faulted { kind := k, pc := some s.pc, word := w } := rfl
@[simp] theorem State.raise_tickPending (k : FaultKind) (w : Option Word) : (s.raise k w).tickPending = s.tickPending := rfl
@[simp] theorem State.raise_toneOn (k : FaultKind) (w : Option Word) : (s.raise k w).toneOn = s.toneOn := rfl
@[simp] theorem State.raise_trace (k : FaultKind) (w : Option Word) : (s.raise k w).trace = s.trace := rfl
@[simp] theorem State.raise_params (k : FaultKind) (w : Option Word) : (s.raise k w).params = s.params := rfl
@[simp] theorem State.raise_runStarted (k : FaultKind) (w : Option Word) : (s.raise k w).runStarted = s.runStarted := rfl
@[simp] theorem State.raise_pins (k : FaultKind) (w : Option Word) : (s.raise k w).pins = s.pins := rfl
@[simp] theorem State.raise_inputs (k : FaultKind) (w : Option Word) : (s.raise k w).inputs = s.inputs := rfl
@[simp] theorem State.raise_inputIndex (k : FaultKind) (w : Option Word) : (s.raise k w).inputIndex = s.inputIndex := rfl

/-! ### raiseAtHost -/

@[simp] theorem State.raiseAtHost_v (k : FaultKind) : (s.raiseAtHost k).v = s.v := rfl
@[simp] theorem State.raiseAtHost_pc (k : FaultKind) : (s.raiseAtHost k).pc = s.pc := rfl
@[simp] theorem State.raiseAtHost_i (k : FaultKind) : (s.raiseAtHost k).i = s.i := rfl
@[simp] theorem State.raiseAtHost_sp (k : FaultKind) : (s.raiseAtHost k).sp = s.sp := rfl
@[simp] theorem State.raiseAtHost_stack (k : FaultKind) : (s.raiseAtHost k).stack = s.stack := rfl
@[simp] theorem State.raiseAtHost_dt (k : FaultKind) : (s.raiseAtHost k).dt = s.dt := rfl
@[simp] theorem State.raiseAtHost_st (k : FaultKind) : (s.raiseAtHost k).st = s.st := rfl
@[simp] theorem State.raiseAtHost_fb (k : FaultKind) : (s.raiseAtHost k).fb = s.fb := rfl
@[simp] theorem State.raiseAtHost_mem (k : FaultKind) : (s.raiseAtHost k).mem = s.mem := rfl
@[simp] theorem State.raiseAtHost_mode (k : FaultKind) : (s.raiseAtHost k).mode = .faulted { kind := k, pc := none, word := none } := rfl
@[simp] theorem State.raiseAtHost_tickPending (k : FaultKind) : (s.raiseAtHost k).tickPending = s.tickPending := rfl
@[simp] theorem State.raiseAtHost_toneOn (k : FaultKind) : (s.raiseAtHost k).toneOn = s.toneOn := rfl
@[simp] theorem State.raiseAtHost_trace (k : FaultKind) : (s.raiseAtHost k).trace = s.trace := rfl
@[simp] theorem State.raiseAtHost_params (k : FaultKind) : (s.raiseAtHost k).params = s.params := rfl
@[simp] theorem State.raiseAtHost_runStarted (k : FaultKind) : (s.raiseAtHost k).runStarted = s.runStarted := rfl
@[simp] theorem State.raiseAtHost_pins (k : FaultKind) : (s.raiseAtHost k).pins = s.pins := rfl
@[simp] theorem State.raiseAtHost_inputs (k : FaultKind) : (s.raiseAtHost k).inputs = s.inputs := rfl
@[simp] theorem State.raiseAtHost_inputIndex (k : FaultKind) : (s.raiseAtHost k).inputIndex = s.inputIndex := rfl

/-! ### sampleInputs -/

@[simp] theorem State.sampleInputs_v : (s.sampleInputs).v = s.v := rfl
@[simp] theorem State.sampleInputs_pc : (s.sampleInputs).pc = s.pc := rfl
@[simp] theorem State.sampleInputs_i : (s.sampleInputs).i = s.i := rfl
@[simp] theorem State.sampleInputs_sp : (s.sampleInputs).sp = s.sp := rfl
@[simp] theorem State.sampleInputs_stack : (s.sampleInputs).stack = s.stack := rfl
@[simp] theorem State.sampleInputs_dt : (s.sampleInputs).dt = s.dt := rfl
@[simp] theorem State.sampleInputs_st : (s.sampleInputs).st = s.st := rfl
@[simp] theorem State.sampleInputs_fb : (s.sampleInputs).fb = s.fb := rfl
@[simp] theorem State.sampleInputs_mem : (s.sampleInputs).mem = s.mem := rfl
@[simp] theorem State.sampleInputs_mode : (s.sampleInputs).mode = s.mode := rfl
@[simp] theorem State.sampleInputs_tickPending : (s.sampleInputs).tickPending = (s.tickPending || s.nextInput.tick) := rfl
@[simp] theorem State.sampleInputs_toneOn : (s.sampleInputs).toneOn = s.toneOn := rfl
@[simp] theorem State.sampleInputs_trace : (s.sampleInputs).trace = s.trace := rfl
@[simp] theorem State.sampleInputs_params : (s.sampleInputs).params = s.params := rfl
@[simp] theorem State.sampleInputs_runStarted : (s.sampleInputs).runStarted = s.runStarted := rfl
@[simp] theorem State.sampleInputs_pins : (s.sampleInputs).pins = s.nextInput := rfl
@[simp] theorem State.sampleInputs_inputs : (s.sampleInputs).inputs = s.inputs.tail := rfl
@[simp] theorem State.sampleInputs_inputIndex : (s.sampleInputs).inputIndex = s.inputIndex + 1 := rfl

/-! ### serviceTick -/

@[simp] theorem State.serviceTick_v : (s.serviceTick).v = s.v := rfl
@[simp] theorem State.serviceTick_pc : (s.serviceTick).pc = s.pc := rfl
@[simp] theorem State.serviceTick_i : (s.serviceTick).i = s.i := rfl
@[simp] theorem State.serviceTick_sp : (s.serviceTick).sp = s.sp := rfl
@[simp] theorem State.serviceTick_stack : (s.serviceTick).stack = s.stack := rfl
@[simp] theorem State.serviceTick_dt : (s.serviceTick).dt = if s.tickPending then timerAfterTick s.dt else s.dt := rfl
@[simp] theorem State.serviceTick_st : (s.serviceTick).st = if s.tickPending then timerAfterTick s.st else s.st := rfl
@[simp] theorem State.serviceTick_fb : (s.serviceTick).fb = s.fb := rfl
@[simp] theorem State.serviceTick_mem : (s.serviceTick).mem = s.mem := rfl
@[simp] theorem State.serviceTick_mode : (s.serviceTick).mode = s.mode := rfl
@[simp] theorem State.serviceTick_tickPending : (s.serviceTick).tickPending = false := rfl
@[simp] theorem State.serviceTick_toneOn : (s.serviceTick).toneOn = if s.stopsTone then false else s.toneOn := rfl
@[simp] theorem State.serviceTick_trace : (s.serviceTick).trace = if s.stopsTone then s.trace ++ [.stopTone] else s.trace := rfl
@[simp] theorem State.serviceTick_params : (s.serviceTick).params = s.params := rfl
@[simp] theorem State.serviceTick_runStarted : (s.serviceTick).runStarted = s.runStarted := rfl
@[simp] theorem State.serviceTick_pins : (s.serviceTick).pins = s.pins := rfl
@[simp] theorem State.serviceTick_inputs : (s.serviceTick).inputs = s.inputs := rfl
@[simp] theorem State.serviceTick_inputIndex : (s.serviceTick).inputIndex = s.inputIndex := rfl

/-! ### writeFlagged -/

@[simp] theorem State.writeFlagged_pc (x : Reg) (r f : Byte) : (s.writeFlagged x r f).pc = s.pc := by
  unfold State.writeFlagged
  cases s.params.vfWriteOrder <;> rfl
@[simp] theorem State.writeFlagged_i (x : Reg) (r f : Byte) : (s.writeFlagged x r f).i = s.i := by
  unfold State.writeFlagged
  cases s.params.vfWriteOrder <;> rfl
@[simp] theorem State.writeFlagged_sp (x : Reg) (r f : Byte) : (s.writeFlagged x r f).sp = s.sp := by
  unfold State.writeFlagged
  cases s.params.vfWriteOrder <;> rfl
@[simp] theorem State.writeFlagged_stack (x : Reg) (r f : Byte) : (s.writeFlagged x r f).stack = s.stack := by
  unfold State.writeFlagged
  cases s.params.vfWriteOrder <;> rfl
@[simp] theorem State.writeFlagged_dt (x : Reg) (r f : Byte) : (s.writeFlagged x r f).dt = s.dt := by
  unfold State.writeFlagged
  cases s.params.vfWriteOrder <;> rfl
@[simp] theorem State.writeFlagged_st (x : Reg) (r f : Byte) : (s.writeFlagged x r f).st = s.st := by
  unfold State.writeFlagged
  cases s.params.vfWriteOrder <;> rfl
@[simp] theorem State.writeFlagged_fb (x : Reg) (r f : Byte) : (s.writeFlagged x r f).fb = s.fb := by
  unfold State.writeFlagged
  cases s.params.vfWriteOrder <;> rfl
@[simp] theorem State.writeFlagged_mem (x : Reg) (r f : Byte) : (s.writeFlagged x r f).mem = s.mem := by
  unfold State.writeFlagged
  cases s.params.vfWriteOrder <;> rfl
@[simp] theorem State.writeFlagged_mode (x : Reg) (r f : Byte) : (s.writeFlagged x r f).mode = s.mode := by
  unfold State.writeFlagged
  cases s.params.vfWriteOrder <;> rfl
@[simp] theorem State.writeFlagged_tickPending (x : Reg) (r f : Byte) : (s.writeFlagged x r f).tickPending = s.tickPending := by
  unfold State.writeFlagged
  cases s.params.vfWriteOrder <;> rfl
@[simp] theorem State.writeFlagged_toneOn (x : Reg) (r f : Byte) : (s.writeFlagged x r f).toneOn = s.toneOn := by
  unfold State.writeFlagged
  cases s.params.vfWriteOrder <;> rfl
@[simp] theorem State.writeFlagged_trace (x : Reg) (r f : Byte) : (s.writeFlagged x r f).trace = s.trace := by
  unfold State.writeFlagged
  cases s.params.vfWriteOrder <;> rfl
@[simp] theorem State.writeFlagged_params (x : Reg) (r f : Byte) : (s.writeFlagged x r f).params = s.params := by
  unfold State.writeFlagged
  cases s.params.vfWriteOrder <;> rfl
@[simp] theorem State.writeFlagged_runStarted (x : Reg) (r f : Byte) : (s.writeFlagged x r f).runStarted = s.runStarted := by
  unfold State.writeFlagged
  cases s.params.vfWriteOrder <;> rfl
@[simp] theorem State.writeFlagged_pins (x : Reg) (r f : Byte) : (s.writeFlagged x r f).pins = s.pins := by
  unfold State.writeFlagged
  cases s.params.vfWriteOrder <;> rfl
@[simp] theorem State.writeFlagged_inputs (x : Reg) (r f : Byte) : (s.writeFlagged x r f).inputs = s.inputs := by
  unfold State.writeFlagged
  cases s.params.vfWriteOrder <;> rfl
@[simp] theorem State.writeFlagged_inputIndex (x : Reg) (r f : Byte) : (s.writeFlagged x r f).inputIndex = s.inputIndex := by
  unfold State.writeFlagged
  cases s.params.vfWriteOrder <;> rfl

/-! ### Reading registers and RAM after an update of other fields -/

/-- Reading a register depends on the register file alone. -/
theorem State.readReg_of_v {s t : State} (h : t.v = s.v) (r : Reg) : t.readReg r = s.readReg r := by
  unfold State.readReg
  rw [h]

/-- Reading a byte depends on the RAM and the font alone. -/
theorem State.readByte_of_mem {s t : State} (hm : t.mem = s.mem) (hp : t.params = s.params) (a : Nat) :
    t.readByte a = s.readByte a := by
  unfold State.readByte
  rw [hm, hp]

/-- A register after a write: the written one holds the value, the others are kept. -/
theorem State.readReg_writeReg (x r : Reg) (b : Byte) :
    (s.writeReg x b).readReg r = if r = x then b else s.readReg r := by
  unfold State.readReg State.writeReg
  rcases eq_or_ne r x with h | h
  · subst h
    simp
  · have : x.val ≠ r.val := fun e => h (Fin.ext e.symm)
    simp [h, this]

@[simp] theorem State.readReg_writeReg_self (x : Reg) (b : Byte) : (s.writeReg x b).readReg x = b := by
  simp [State.readReg_writeReg]

@[simp] theorem State.readReg_advance (r : Reg) : s.advance.readReg r = s.readReg r := rfl

/-- Registers after a load of V0..Vx. -/
theorem State.readReg_loadRegsUpTo (x r : Reg) (a : Nat) :
    (s.loadRegsUpTo x a).readReg r = if r.val ≤ x.val then s.readByte (a + r.val) else s.readReg r := by
  simp [State.loadRegsUpTo, State.readReg]

/-- Registers after the flagged write (41_alu.md R161), for both orders. -/
theorem State.readReg_writeFlagged (x r : Reg) (result flag : Byte) :
    (s.writeFlagged x result flag).readReg r =
      if r = x ∧ (x = flagReg → s.params.vfWriteOrder = .resultLast) then result
      else if r = flagReg then flag
      else s.readReg r := by
  unfold State.writeFlagged
  cases hO : s.params.vfWriteOrder <;> simp only [State.readReg_writeReg] <;>
    by_cases hr : r = x <;> by_cases hf : r = flagReg <;> simp_all

end Sys2Proof.Machine
end

