-- ==== Sys2Proof/Laws/Ops.lean ====
section
/-! SUPPORT. One lemma per shared operation that says everything it can do, for the proofs to cite instead of unfolding
it: range checks, key skips, the held-key draw, flags, the sprite mask and the draw. -/

namespace Sys2Proof.Machine

variable (s : State)

/-! ### Range check (20_memory.md R74) -/

theorem badAddress_none {len : Nat} (h : len = 0 ∨ s.i.toNat + len ≤ 4096) : badAddress s len = none := by
  have : ¬ (0 < len ∧ ramSize < effectiveAddr s len) := by
    simp only [effectiveAddr, ramSize]
    omega
  rw [badAddress, if_neg this]

theorem badAddress_some {len : Nat} (h0 : 0 < len) (h : 4096 < s.i.toNat + len) :
    badAddress s len = some (max s.i.toNat 4096) := if_pos ⟨h0, h⟩

/-- A checked access in range gives its result. -/
theorem State.accessing_inRange {len : Nat} (h : len = 0 ∨ s.i.toNat + len ≤ 4096) (i : Instr) (done : State) :
    s.accessing len i done = .next done := by
  rw [State.accessing, badAddress_none s h]

/-- A checked access out of range faults and does nothing else. -/
theorem State.accessing_outOfRange {len : Nat} (h0 : 0 < len) (h : 4096 < s.i.toNat + len) (i : Instr) (done : State) :
    s.accessing len i done = .next (s.raise (.memoryOutOfRange (max s.i.toNat 4096)) (some (encode i))) := by
  rw [State.accessing, badAddress_some s h0 h]

/-- What a checked access can give: the fault, or the result of the access in range. -/
theorem State.accessing_cases {len : Nat} {i : Instr} {done t : State} (h : s.accessing len i done = .next t) :
    (0 < len ∧ 4096 < s.i.toNat + len ∧
      t = s.raise (.memoryOutOfRange (max s.i.toNat 4096)) (some (encode i))) ∨
    ((len = 0 ∨ s.i.toNat + len ≤ 4096) ∧ t = done) := by
  by_cases hr : 0 < len ∧ 4096 < s.i.toNat + len
  · rw [State.accessing_outOfRange s hr.1 hr.2] at h
    injection h with h
    exact .inl ⟨hr.1, hr.2, h.symm⟩
  · have hr' : len = 0 ∨ s.i.toNat + len ≤ 4096 := by omega
    rw [State.accessing_inRange s hr'] at h
    injection h with h
    exact .inr ⟨hr', h.symm⟩

/-! ### Key skip (44_timers_keys.md R250 to R252) -/

/-- What a key skip can give: InvalidKey above 15, or the skip. -/
theorem State.keySkip_cases {key : Byte} {i : Instr} {c : Bool} {t : State} (h : s.keySkip key i c = .next t) :
    (key.toNat > 15 ∧ t = s.raise (.invalidKey key) (some (encode i))) ∨ (key.toNat ≤ 15 ∧ t = s.skipWhen c) := by
  unfold State.keySkip at h
  split at h <;> rename_i hk <;> injection h with h
  · exact .inl ⟨hk, h.symm⟩
  · exact .inr ⟨by omega, h.symm⟩

/-! ### RET, CALL and the sound timer: the branching meanings -/

/-- What RET can give (40_control.md R131). -/
theorem execRet_cases {t : State} (h : execRet s = .next t) :
    (s.sp.val = 0 ∧ t = s.raise .stackUnderflow (some (encode .ret))) ∨
    ∃ (j : Fin 16), s.sp.val = j.val + 1 ∧ t = { s with sp := j.castSucc, pc := s.stack[j] + 2 } := by
  unfold execRet at h
  split at h <;> rename_i hs <;> injection h with h
  · exact .inl ⟨hs, h.symm⟩
  · exact .inr ⟨⟨s.sp.val - 1, by omega⟩, by simp; omega, h.symm⟩

/-- What CALL can give (40_control.md R134). -/
theorem execCall_cases {nnn : Addr12} {t : State} (h : execCall nnn s = .next t) :
    (s.sp.val = 16 ∧ t = s.raise .stackOverflow (some (encode (.call nnn)))) ∨
    ∃ (j : Fin 16), s.sp.val = j.val ∧
      t = { s with stack := s.stack.set j s.pc, sp := j.succ, pc := addrTarget nnn } := by
  unfold execCall at h
  split at h <;> rename_i hs <;> injection h with h
  · exact .inl ⟨hs, h.symm⟩
  · exact .inr ⟨⟨s.sp.val, by omega⟩, rfl, h.symm⟩

/-- What LD ST, Vx can give (44_timers_keys.md R257). -/
theorem execLdStVx_cases {x : Reg} {t : State} (h : execLdStVx x s = .next t) :
    (s.readReg x = 0 ∧ t = { s with st := s.readReg x }.advance) ∨
    (s.readReg x ≠ 0 ∧ t = { s with st := s.readReg x }.startTone.advance) := by
  unfold execLdStVx at h
  injection h with h
  by_cases hx : s.readReg x = 0
  · exact .inl ⟨hx, by rw [← h, if_pos hx]⟩
  · exact .inr ⟨hx, by rw [← h, if_neg hx]⟩

/-! ### Numbers -/

/-- A fetched instruction's `pc + 2` does not wrap (10_state.md R36). -/
theorem pc_add_two {pc : Word} (h : pc.toNat ≤ 4096) : (pc + 2).toNat = pc.toNat + 2 := by
  rw [BitVec.toNat_add]
  show (pc.toNat + 2) % 2 ^ 16 = _
  omega

/-- A skip's `pc + 4` does not wrap (10_state.md R36). -/
theorem pc_add_four {pc : Word} (h : pc.toNat ≤ 4096) : (pc + 4).toNat = pc.toNat + 4 := by
  rw [BitVec.toNat_add]
  show (pc.toNat + 4) % 2 ^ 16 = _
  omega

theorem addrTarget_toNat (nnn : Addr12) : (addrTarget nnn).toNat = nnn.toNat := by
  simp only [addrTarget, BitVec.toNat_setWidth]
  omega

theorem offsetTarget_toNat (nnn : Addr12) (b : Byte) : (offsetTarget nnn b).toNat = nnn.toNat + b.toNat := by
  simp only [offsetTarget, BitVec.toNat_add, BitVec.toNat_setWidth]
  omega

theorem glyphAddress_toNat (b : Byte) : (glyphAddress b).toNat = b.toNat * 5 := by
  simp only [glyphAddress, BitVec.toNat_ofNat]
  omega

theorem timerAfterTick_toNat (t : Byte) : (timerAfterTick t).toNat = t.toNat - 1 := by
  simp only [timerAfterTick, BitVec.toNat_ofNat]
  omega

/-- A flag is 0 or 1 (10_state.md R32). -/
theorem flagByte_toNat (b : Bool) : (flagByte b).toNat = b.toNat := by
  cases b <;> rfl

@[simp] theorem length_bcdDigits (b : Byte) : (bcdDigits b).length = 3 := rfl

@[simp] theorem State.length_regsUpTo (x : Reg) : (s.regsUpTo x).length = x.val + 1 := by
  simp only [State.regsUpTo, List.length_take, Vector.length_toList]
  omega

/-- The k-th byte `Fx55` stores is Vk. -/
theorem State.getElem_regsUpTo (x k : Reg) (h : k.val < (s.regsUpTo x).length) :
    (s.regsUpTo x)[k.val] = s.readReg k := by
  simp [State.regsUpTo, State.readReg]

/-- The last tone request after one more event (10_state.md R42). -/
theorem lastToneRequest_append (trace : List PortEvent) (e : PortEvent) :
    lastToneRequest (trace ++ [e]) = toneAfter (lastToneRequest trace) e := by
  simp [lastToneRequest]

/-! ### RAM through the state -/

/-- A byte read after a store: the stored byte inside, as before outside. -/
theorem State.readByte_storeBytes (hm : Memory.wf s.params.font s.mem) (a : Nat) (bs : List Byte) (a' : Nat) :
    (s.storeBytes a bs).readByte a' = if h : a ≤ a' ∧ a' - a < bs.length then bs[a' - a] else s.readByte a' :=
  Memory.read_writeBytes s.params.font hm.1 a bs a'

/-! ### The held-key draw (44_timers_keys.md R255) -/

theorem mem_keyOrder (choice k : Key) : k ∈ keyOrder choice := by
  simp only [keyOrder, List.mem_map, List.mem_finRange, true_and]
  exact ⟨k - choice, by simp⟩

/-- No key is drawn exactly when none is held. -/
theorem drawHeldKey_none {inp : StepInput} : drawHeldKey inp = none ↔ inp.keyHeld = 0 := by
  simp only [drawHeldKey, List.find?_eq_none, mem_keyOrder, true_implies, Bool.not_eq_true]
  constructor
  · intro h
    apply BitVec.eq_of_getLsbD_eq
    intro i hi
    simpa using h ⟨i, hi⟩
  · intro h k
    simp [h]

/-- A drawn key is held. -/
theorem drawHeldKey_held {inp : StepInput} {k : Key} (h : drawHeldKey inp = some k) :
    inp.keyHeld.getLsbD k.val = true := by
  simpa using List.find?_some h

/-- The preferred key is drawn whenever it is held. -/
theorem drawHeldKey_choice {inp : StepInput} (h : inp.keyHeld.getLsbD inp.keyChoice.val = true) :
    drawHeldKey inp = some inp.keyChoice := by
  simp [drawHeldKey, keyOrder, List.finRange_succ, h]

/-! ### The sprite and the draw (43_display.md R230, R232, R233) -/

/-- Column `px` of the mask of a sprite byte at `x0`: bit 7 - col for the column col that wraps to it. -/
theorem spriteMask_getLsbD (b : Byte) (x0 : Nat) (px : Fin 64) :
    (spriteMask b x0).getLsbD px.val = true ↔
      ∃ col : Nat, col < 8 ∧ b.getLsbD (7 - col) = true ∧ px.val = (x0 + col) % 64 := by
  have hpx := px.isLt
  have hx : x0 % 64 < 64 := Nat.mod_lt _ (by decide)
  have key : (spriteMask b x0).getLsbD px.val =
      (decide ((px.val + 64 - x0 % 64) % 64 < 8) && b.getLsbD (7 - (px.val + 64 - x0 % 64) % 64)) := by
    unfold spriteMask
    rw [BitVec.getLsbD_rotateLeft]
    simp only [Nat.mod_mod]
    simp only [BitVec.getLsbD_setWidth, BitVec.getLsbD_reverse, BitVec.getMsbD_eq_getLsbD, cond_eq_ite,
      decide_eq_true_eq]
    by_cases h : px.val < x0 % 64
    · have h1 : (px.val + 64 - x0 % 64) % 64 = 64 - x0 % 64 + px.val := by omega
      have h2 : 64 - x0 % 64 + px.val < 64 := by omega
      simp [h, h1, h2]
    · have h1 : (px.val + 64 - x0 % 64) % 64 = px.val - x0 % 64 := by omega
      have h2 : px.val - x0 % 64 < 64 := by omega
      simp [h, h1, h2, hpx]
  rw [key]
  simp only [Bool.and_eq_true, decide_eq_true_eq]
  constructor
  · rintro ⟨h1, h2⟩
    exact ⟨_, h1, h2, by omega⟩
  · rintro ⟨col, hc, hb, hp⟩
    have : (px.val + 64 - x0 % 64) % 64 = col := by omega
    rw [this]
    exact ⟨hc, hb⟩

end Sys2Proof.Machine
end

