-- ==== Sys2Proof/Laws/Draw.lean ====
section
/-! SUPPORT. What a draw does to each pixel, and its collision flag (43_display.md R232 to R234). -/

namespace Sys2Proof.Machine

/-- The pixel (px, py) lies under a set bit of the sprite rows drawn at (x0, y0). -/
def rowsCover (bs : List Byte) (x0 y0 : Nat) (px : Fin 64) (py : Fin 32) : Prop :=
  ∃ row, ∃ h : row < bs.length, py.val = (y0 + row) % 32 ∧ (spriteMask bs[row] x0).getLsbD px.val = true

theorem not_rowsCover_nil (x0 y0 : Nat) (px : Fin 64) (py : Fin 32) : ¬ rowsCover [] x0 y0 px py := by
  rintro ⟨row, h, -⟩
  simp at h

/-- A pixel under the rows lies under the first row or under the rows below it. -/
theorem rowsCover_cons (b : Byte) (bs : List Byte) (x0 y0 : Nat) (px : Fin 64) (py : Fin 32) :
    rowsCover (b :: bs) x0 y0 px py ↔
      (py.val = y0 % 32 ∧ (spriteMask b x0).getLsbD px.val = true) ∨ rowsCover bs x0 (y0 + 1) px py := by
  constructor
  · rintro ⟨row, h, hy, hx⟩
    cases row with
    | zero => exact .inl ⟨hy, hx⟩
    | succ row =>
      refine .inr ⟨row, by simpa using h, ?_, by simpa using hx⟩
      rw [hy, Nat.add_right_comm, Nat.add_assoc]
  · rintro (⟨hy, hx⟩ | ⟨row, h, hy, hx⟩)
    · exact ⟨0, by simp, hy, hx⟩
    · refine ⟨row + 1, by simpa using h, ?_, by simpa using hx⟩
      rw [hy, Nat.add_right_comm, Nat.add_assoc]

/-- Rows below a line do not come back to it: a draw touches each pixel at most once (R234). -/
theorem rowsCover_below {bs : List Byte} {x0 y0 : Nat} {px : Fin 64} {py : Fin 32} (hlen : bs.length < 32)
    (h : rowsCover bs x0 (y0 + 1) px py) : py.val ≠ y0 % 32 := by
  obtain ⟨row, hr, hy, -⟩ := h
  omega

/-- A pixel after one line was XORed with a mask. -/
theorem pixel_set_line (fb : Framebuffer) (line : Fin 32) (mask : BitVec 64) (px : Fin 64) (py : Fin 32) :
    pixel (fb.set line (fb[line] ^^^ mask)) px py =
      if py = line then (pixel fb px py ^^ mask.getLsbD px.val) else pixel fb px py := by
  unfold pixel
  by_cases h : py = line
  · subst h
    simp
  · have : line.val ≠ py.val := fun e => h (Fin.ext e.symm)
    simp [h, this]

/-- A draw of at most 32 rows toggles the covered pixels and no other (R232). -/
theorem pixel_drawRows (fb : Framebuffer) (x0 y0 : Nat) (bs : List Byte) (hlen : bs.length ≤ 32) (px : Fin 64)
    (py : Fin 32) :
    (rowsCover bs x0 y0 px py → pixel (drawRows fb x0 y0 bs).1 px py = !pixel fb px py) ∧
    (¬ rowsCover bs x0 y0 px py → pixel (drawRows fb x0 y0 bs).1 px py = pixel fb px py) := by
  induction bs generalizing fb y0 with
  | nil => exact ⟨fun h => absurd h (not_rowsCover_nil _ _ _ _), fun _ => rfl⟩
  | cons b bs ih =>
    simp only [List.length_cons] at hlen
    have hbelow := ih (fb.set (⟨y0 % 32, Nat.mod_lt _ (by decide)⟩ : Fin 32)
      (fb[(⟨y0 % 32, Nat.mod_lt _ (by decide)⟩ : Fin 32)] ^^^ spriteMask b x0)) (y0 + 1) (by omega)
    rw [pixel_set_line] at hbelow
    rw [rowsCover_cons]
    simp only [drawRows]
    by_cases hy : py = ⟨y0 % 32, Nat.mod_lt _ (by decide)⟩
    · have hnot : ¬ rowsCover bs x0 (y0 + 1) px py := fun h =>
        rowsCover_below (by omega) h (congrArg Fin.val hy)
      have hv : py.val = y0 % 32 := congrArg Fin.val hy
      rw [hbelow.2 hnot, if_pos hy]
      constructor
      · rintro (⟨-, hm⟩ | h)
        · rw [hm, Bool.xor_true]
        · exact absurd h hnot
      · intro h
        have : (spriteMask b x0).getLsbD px.val = false := by
          by_contra hm
          exact h (.inl ⟨hv, by simpa using hm⟩)
        rw [this, Bool.xor_false]
    · have hv : py.val ≠ y0 % 32 := fun e => hy (Fin.ext e)
      rw [if_neg hy] at hbelow
      constructor
      · rintro (⟨h, -⟩ | h)
        · exact absurd h hv
        · exact hbelow.1 h
      · intro h
        exact hbelow.2 fun hc => h (.inr hc)

/-- Two words have a common bit exactly if their AND is not zero. -/
theorem and_ne_zero_iff (a b : BitVec 64) :
    a &&& b ≠ 0 ↔ ∃ px : Fin 64, a.getLsbD px.val = true ∧ b.getLsbD px.val = true := by
  constructor
  · intro h
    by_contra hc
    apply h
    apply BitVec.eq_of_getLsbD_eq
    intro i hi
    by_contra hb
    apply hc
    simp only [BitVec.getLsbD_and] at hb
    exact ⟨⟨i, hi⟩, by simpa using hb⟩
  · rintro ⟨px, ha, hb⟩ h
    have hab : (a &&& b).getLsbD px.val = true := by rw [BitVec.getLsbD_and, ha, hb, Bool.and_self]
    simp [h] at hab

/-- The collision flag of a draw of at most 32 rows: some covered pixel was set before the draw (R233). -/
theorem drawRows_hit (fb : Framebuffer) (x0 y0 : Nat) (bs : List Byte) (hlen : bs.length ≤ 32) :
    (drawRows fb x0 y0 bs).2 = true ↔ ∃ px py, rowsCover bs x0 y0 px py ∧ pixel fb px py = true := by
  induction bs generalizing fb y0 with
  | nil => simp [drawRows, not_rowsCover_nil]
  | cons b bs ih =>
    simp only [List.length_cons] at hlen
    simp only [drawRows, Bool.or_eq_true, decide_eq_true_eq]
    rw [ih _ _ (by omega), and_ne_zero_iff]
    constructor
    · rintro (⟨px, hp, hm⟩ | ⟨px, py, hc, hp⟩)
      · exact ⟨px, ⟨y0 % 32, Nat.mod_lt _ (by decide)⟩, (rowsCover_cons ..).mpr (.inl ⟨rfl, hm⟩), hp⟩
      · refine ⟨px, py, (rowsCover_cons ..).mpr (.inr hc), ?_⟩
        have hy : py ≠ ⟨y0 % 32, Nat.mod_lt _ (by decide)⟩ := fun e =>
          rowsCover_below (by omega) hc (congrArg Fin.val e)
        exact ((pixel_set_line ..).trans (if_neg hy)).symm.trans hp
    · rintro ⟨px, py, hc, hp⟩
      rcases (rowsCover_cons ..).mp hc with ⟨hv, hm⟩ | hc
      · have hy : py = ⟨y0 % 32, Nat.mod_lt _ (by decide)⟩ := Fin.ext hv
        subst hy
        exact .inl ⟨px, hp, hm⟩
      · have hy : py ≠ ⟨y0 % 32, Nat.mod_lt _ (by decide)⟩ := fun e =>
          rowsCover_below (by omega) hc (congrArg Fin.val e)
        refine .inr ⟨px, py, hc, ?_⟩
        exact ((pixel_set_line ..).trans (if_neg hy)).trans hp

/-- The rows read for a draw cover what the rule says the sprite covers (R230). -/
theorem rowsCover_readBytes (s : State) (x0 y0 n : Nat) (px : Fin 64) (py : Fin 32) :
    rowsCover (s.readBytes s.i.toNat n) x0 y0 px py ↔ spriteCovers s x0 y0 n px py := by
  have hlen : (s.readBytes s.i.toNat n).length = n := Memory.length_readBytes ..
  constructor
  · rintro ⟨row, h, hy, hm⟩
    rw [spriteMask_getLsbD] at hm
    obtain ⟨col, hc, hb, hx⟩ := hm
    refine ⟨row, col, by omega, hc, ?_, hx, hy⟩
    simp only [State.readBytes, Memory.getElem_readBytes] at hb
    exact hb
  · rintro ⟨row, col, hr, hc, hb, hx, hy⟩
    refine ⟨row, by omega, hy, (spriteMask_getLsbD ..).mpr ⟨col, hc, ?_, hx⟩⟩
    simp only [State.readBytes, Memory.getElem_readBytes]
    exact hb

end Sys2Proof.Machine
end

