-- ==== Sys2Proof/Laws/PerInstr.lean ====
section
/-! SUPPORT. Per instruction: the word of an instruction matches its row of spec/opcode_table.json, `word AND mask = match`,
with the row's mask and match written out from the table. -/

namespace Sys2Proof.Laws.TableRow

/-- The mask and the match of an instruction's row of spec/opcode_table.json. -/
def row : Instr → Word × Word
  | .cls => (0xFFFF, 0x00E0)
  | .ret => (0xFFFF, 0x00EE)
  | .sys _ => (0xF000, 0x0000)
  | .jp _ => (0xF000, 0x1000)
  | .call _ => (0xF000, 0x2000)
  | .seImm _ _ => (0xF000, 0x3000)
  | .sneImm _ _ => (0xF000, 0x4000)
  | .seReg _ _ => (0xF00F, 0x5000)
  | .ldImm _ _ => (0xF000, 0x6000)
  | .addImm _ _ => (0xF000, 0x7000)
  | .ldReg _ _ => (0xF00F, 0x8000)
  | .orReg _ _ => (0xF00F, 0x8001)
  | .andReg _ _ => (0xF00F, 0x8002)
  | .xorReg _ _ => (0xF00F, 0x8003)
  | .addReg _ _ => (0xF00F, 0x8004)
  | .subReg _ _ => (0xF00F, 0x8005)
  | .shr _ _ => (0xF00F, 0x8006)
  | .subn _ _ => (0xF00F, 0x8007)
  | .shl _ _ => (0xF00F, 0x800E)
  | .sneReg _ _ => (0xF00F, 0x9000)
  | .ldI _ => (0xF000, 0xA000)
  | .jpV0 _ => (0xF000, 0xB000)
  | .rnd _ _ => (0xF000, 0xC000)
  | .drw _ _ _ => (0xF000, 0xD000)
  | .skp _ => (0xF0FF, 0xE09E)
  | .sknp _ => (0xF0FF, 0xE0A1)
  | .ldVxDt _ => (0xF0FF, 0xF007)
  | .ldVxK _ => (0xF0FF, 0xF00A)
  | .ldDtVx _ => (0xF0FF, 0xF015)
  | .ldStVx _ => (0xF0FF, 0xF018)
  | .addI _ => (0xF0FF, 0xF01E)
  | .ldF _ => (0xF0FF, 0xF029)
  | .ldB _ => (0xF0FF, 0xF033)
  | .storeRegs _ => (0xF0FF, 0xF055)
  | .loadRegs _ => (0xF0FF, 0xF065)

/-- The word of the instruction matches its row. -/
def Statement (i : Instr) : Prop := encode i &&& (row i).1 = (row i).2

theorem and_f (a : Nibble) : a &&& 0xF#4 = a := BitVec.and_allOnes

theorem and_ff (a : Byte) : a &&& 0xFF#8 = a := BitVec.and_allOnes

/-- AND goes into the two parts of format NNN. -/
theorem and_parts2 (a a' : Nibble) (b b' : Addr12) :
    ((a ++ b) &&& (a' ++ b') : BitVec (4 + 12)) = (a &&& a') ++ (b &&& b') := BitVec.and_append

/-- AND goes into the three parts of format XKK. -/
theorem and_parts3 (a a' b b' : Nibble) (c c' : Byte) :
    ((a ++ b ++ c) &&& (a' ++ b' ++ c') : BitVec (4 + 4 + 8)) = (a &&& a') ++ (b &&& b') ++ (c &&& c') := by
  rw [BitVec.and_append, BitVec.and_append]

/-- AND goes into the four parts of format XYN. -/
theorem and_parts4 (a a' b b' c c' d d' : Nibble) :
    ((a ++ b ++ c ++ d) &&& (a' ++ b' ++ c' ++ d') : BitVec (4 + 4 + 4 + 4)) =
      (a &&& a') ++ (b &&& b') ++ (c &&& c') ++ (d &&& d') := by
  rw [BitVec.and_append, BitVec.and_append, BitVec.and_append]

/-- Format NNN under the mask F000 leaves the opcode. -/
theorem maskNnn (op : Nibble) (nnn : Addr12) : formatNnn op nnn &&& 0xF000#16 = op ++ 0#12 :=
  (and_parts2 op 0xF#4 nnn 0#12).trans (by simp only [and_f, BitVec.and_zero])

/-- Format XKK under the mask F000 leaves the opcode. -/
theorem maskXkk (op : Nibble) (x : Reg) (kk : Byte) : formatXkk op x kk &&& 0xF000#16 = op ++ 0#4 ++ 0#8 :=
  (and_parts3 op 0xF#4 _ 0#4 kk 0#8).trans (by simp only [and_f, BitVec.and_zero])

/-- Format X under the mask F0FF leaves the opcode and the function. -/
theorem maskX (op : Nibble) (x : Reg) (kk : Byte) : formatXkk op x kk &&& 0xF0FF#16 = op ++ 0#4 ++ kk :=
  (and_parts3 op 0xF#4 _ 0#4 kk 0xFF#8).trans (by simp only [and_f, and_ff, BitVec.and_zero])

/-- Format XY under the mask F00F leaves the opcode and the function. -/
theorem maskXy (op : Nibble) (x y : Reg) (n : Nibble) :
    formatXyn op x y n &&& 0xF00F#16 = op ++ 0#4 ++ 0#4 ++ n :=
  (and_parts4 op 0xF#4 _ 0#4 _ 0#4 n 0xF#4).trans (by simp only [and_f, BitVec.and_zero])

/-- Format XYN under the mask F000 leaves the opcode. -/
theorem maskXyn (op : Nibble) (x y : Reg) (n : Nibble) :
    formatXyn op x y n &&& 0xF000#16 = op ++ 0#4 ++ 0#4 ++ 0#4 :=
  (and_parts4 op 0xF#4 _ 0#4 _ 0#4 n 0#4).trans (by simp only [and_f, BitVec.and_zero])

theorem cls : Statement .cls := rfl
theorem ret : Statement .ret := rfl
theorem sys (nnn : Addr12) : Statement (.sys nnn) := maskNnn _ nnn
theorem jp (nnn : Addr12) : Statement (.jp nnn) := maskNnn _ nnn
theorem call (nnn : Addr12) : Statement (.call nnn) := maskNnn _ nnn
theorem seImm (x : Reg) (kk : Byte) : Statement (.seImm x kk) := maskXkk _ x kk
theorem sneImm (x : Reg) (kk : Byte) : Statement (.sneImm x kk) := maskXkk _ x kk
theorem seReg (x y : Reg) : Statement (.seReg x y) := maskXy _ x y _
theorem ldImm (x : Reg) (kk : Byte) : Statement (.ldImm x kk) := maskXkk _ x kk
theorem addImm (x : Reg) (kk : Byte) : Statement (.addImm x kk) := maskXkk _ x kk
theorem ldReg (x y : Reg) : Statement (.ldReg x y) := maskXy _ x y _
theorem orReg (x y : Reg) : Statement (.orReg x y) := maskXy _ x y _
theorem andReg (x y : Reg) : Statement (.andReg x y) := maskXy _ x y _
theorem xorReg (x y : Reg) : Statement (.xorReg x y) := maskXy _ x y _
theorem addReg (x y : Reg) : Statement (.addReg x y) := maskXy _ x y _
theorem subReg (x y : Reg) : Statement (.subReg x y) := maskXy _ x y _
theorem shr (x y : Reg) : Statement (.shr x y) := maskXy _ x y _
theorem subn (x y : Reg) : Statement (.subn x y) := maskXy _ x y _
theorem shl (x y : Reg) : Statement (.shl x y) := maskXy _ x y _
theorem sneReg (x y : Reg) : Statement (.sneReg x y) := maskXy _ x y _
theorem ldI (nnn : Addr12) : Statement (.ldI nnn) := maskNnn _ nnn
theorem jpV0 (nnn : Addr12) : Statement (.jpV0 nnn) := maskNnn _ nnn
theorem rnd (x : Reg) (kk : Byte) : Statement (.rnd x kk) := maskXkk _ x kk
theorem drw (x y : Reg) (n : Nibble) : Statement (.drw x y n) := maskXyn _ x y n
theorem skp (x : Reg) : Statement (.skp x) := maskX _ x _
theorem sknp (x : Reg) : Statement (.sknp x) := maskX _ x _
theorem ldVxDt (x : Reg) : Statement (.ldVxDt x) := maskX _ x _
theorem ldVxK (x : Reg) : Statement (.ldVxK x) := maskX _ x _
theorem ldDtVx (x : Reg) : Statement (.ldDtVx x) := maskX _ x _
theorem ldStVx (x : Reg) : Statement (.ldStVx x) := maskX _ x _
theorem addI (x : Reg) : Statement (.addI x) := maskX _ x _
theorem ldF (x : Reg) : Statement (.ldF x) := maskX _ x _
theorem ldB (x : Reg) : Statement (.ldB x) := maskX _ x _
theorem storeRegs (x : Reg) : Statement (.storeRegs x) := maskX _ x _
theorem loadRegs (x : Reg) : Statement (.loadRegs x) := maskX _ x _

end Sys2Proof.Laws.TableRow
end

