-- ==== Sys2Proof/Laws/Signals.lean ====
section
/-! SUPPORT. What the fault signals show of a Faulted core (60_exceptions.md R300, R324). -/

namespace Sys2Proof.Machine

/-- A fault signal shows what the record gives for it. -/
theorem State.faultWire_eq {s : State} {r : FaultRecord} {wire : FaultWire} {given : FaultRecord → Option Word}
    {w : Word} (h : s.faultRecord = some r) (hg : given r = some w) : s.faultWire wire given = w := by
  simp [State.faultWire, h, hg]

theorem State.faultCode_eq {s : State} {r : FaultRecord} (h : s.faultRecord = some r) :
    s.faultCode = r.kind.code := by
  simp [State.faultCode, h]

theorem State.faultPc_eq {s : State} {r : FaultRecord} {w : Word} (h : s.faultRecord = some r) (hw : r.pc = some w) :
    s.faultPc = w := State.faultWire_eq h hw

theorem State.faultWord_eq {s : State} {r : FaultRecord} {w : Word} (h : s.faultRecord = some r)
    (hw : r.word = some w) : s.faultWord = w := State.faultWire_eq h hw

/-- `fault_info` of MemoryOutOfRange is the lowest bad address: it fits 16 bits when it is `max(I, 4096)`. -/
theorem State.faultInfo_memoryOutOfRange {s : State} {r : FaultRecord} {i : Word} (h : s.faultRecord = some r)
    (hk : r.kind = .memoryOutOfRange (max i.toNat 4096)) : s.faultInfo.toNat = max i.toNat 4096 := by
  have hw : r.kind.infoWire = some (BitVec.ofNat 16 (max i.toNat 4096)) := by simp [hk, FaultKind.infoWire, FaultKind.info]
  rw [State.faultInfo, State.faultWire_eq h hw, BitVec.toNat_ofNat]
  omega

theorem State.faultInfo_invalidKey {s : State} {r : FaultRecord} {key : Byte} (h : s.faultRecord = some r)
    (hk : r.kind = .invalidKey key) : s.faultInfo.toNat = key.toNat := by
  have hw : r.kind.infoWire = some (BitVec.ofNat 16 key.toNat) := by simp [hk, FaultKind.infoWire, FaultKind.info]
  rw [State.faultInfo, State.faultWire_eq h hw, BitVec.toNat_ofNat]
  omega

theorem State.faultInfo_invalidStart {s : State} {r : FaultRecord} {start : Word} (h : s.faultRecord = some r)
    (hk : r.kind = .invalidStartAddress start) : s.faultInfo = start := by
  have hw : r.kind.infoWire = some start := by simp [hk, FaultKind.infoWire, FaultKind.info]
  exact State.faultWire_eq h hw

end Sys2Proof.Machine
end

