-- ==== Sys2Proof/Laws/Step.lean ====
section
/-! SUPPORT. What one step and one instruction can do: the inversion lemmas the proofs about steps are derived from. -/

namespace Sys2Proof.Machine

variable {s t : State}

/-- A state that has not faulted has no record. -/
theorem State.faultRecord_eq_none : s.faultRecord = none ↔ ∀ r, s.mode ≠ .faulted r := by
  unfold State.faultRecord
  split <;> simp_all

@[simp] theorem State.fetchWord_beginIteration : s.beginIteration.fetchWord = s.fetchWord := rfl

@[simp] theorem State.pc_beginIteration : s.beginIteration.pc = s.pc := rfl

@[simp] theorem State.mode_beginIteration : s.beginIteration.mode = s.mode := rfl

/-- What the fetch and the execution of one instruction can give (70_reset_and_hazards.md R358, steps 3 to 5). -/
theorem State.fetchAndExecute_cases (h : s.fetchAndExecute = .next t) :
    (4095 ≤ s.pc.toNat ∧ t = s.raise .programCounterOutOfRange none) ∨
    (s.pc.toNat ≤ 4094 ∧ ∃ e, decodeWord s.fetchWord = .error e ∧ t = s.raise .illegalInstruction (some s.fetchWord)) ∨
    (s.pc.toNat ≤ 4094 ∧ ∃ i, decodeWord s.fetchWord = .ok i ∧ exec i s = .next t) := by
  unfold State.fetchAndExecute at h
  split at h
  · rename_i hpc
    injection h with h
    exact .inl ⟨hpc, h.symm⟩
  · rename_i hpc
    have hpc' : s.pc.toNat ≤ 4094 := by
      simp only [ramSize] at hpc
      omega
    split at h
    · rename_i i hd
      exact .inr (.inr ⟨hpc', i, hd, h⟩)
    · rename_i e hd
      injection h with h
      exact .inr (.inl ⟨hpc', e, hd, h.symm⟩)

/-- What a key-wait step can give (44_timers_keys.md R255). -/
theorem State.keyWaitStep_cases (s : State) (x : Reg) :
    (s.pins.keyHeld = 0 ∧ s.keyWaitStep x = s) ∨
    ∃ k : Key, s.pins.keyHeld.getLsbD k.val = true ∧
      s.keyWaitStep x = { (s.writeReg x (BitVec.ofNat 8 k.val)).advance with mode := .running } := by
  unfold State.keyWaitStep
  split
  · rename_i k hk
    exact .inr ⟨k, drawHeldKey_held hk, rfl⟩
  · rename_i hk
    exact .inl ⟨drawHeldKey_none.mp hk, rfl⟩

/-- What one step can give: an iteration of a Running core, or a key-wait step (00_scope.md R12). -/
theorem step_cases (h : step s = .next t) :
    (s.mode = .running ∧ s.beginIteration.fetchAndExecute = .next t) ∨
    ∃ x, s.mode = .keyWait x ∧ t = s.sampleInputs.keyWaitStep x := by
  unfold step at h
  split at h
  · rename_i hm
    exact .inl ⟨hm, h⟩
  · rename_i x hm
    injection h with h
    exact .inr ⟨x, hm, h.symm⟩
  · cases h

/-- The meaning of every instruction gives a next state: a fault is entered, it does not stop the machine. -/
theorem exec_next (i : Instr) (s : State) : ∃ t, exec i s = .next t := by
  have hacc : ∀ len j d, ∃ t, s.accessing len j d = .next t := by
    intro len j d
    unfold State.accessing
    split <;> exact ⟨_, rfl⟩
  have hkey : ∀ k j c, ∃ t, s.keySkip k j c = .next t := by
    intro k j c
    unfold State.keySkip
    split <;> exact ⟨_, rfl⟩
  cases i with
  | ret =>
    show ∃ t, execRet s = .next t
    unfold execRet
    split <;> exact ⟨_, rfl⟩
  | call nnn =>
    show ∃ t, execCall nnn s = .next t
    unfold execCall
    split <;> exact ⟨_, rfl⟩
  | skp x => exact hkey ..
  | sknp x => exact hkey ..
  | ldB x => exact hacc ..
  | storeRegs x => exact hacc ..
  | loadRegs x => exact hacc ..
  | drw x y n => exact hacc ..
  | _ => exact ⟨_, rfl⟩

end Sys2Proof.Machine
end

