-- ==== Sys2Proof/Machine/Listing.lean ====
section
/-! DEFINITION. The assembly syntax of an instruction (30_encoding.md R109), for listings. No step uses it. -/

namespace Sys2Proof.Machine

/-- A hexadecimal digit, capital as the spec writes it. -/
def hexDigit (n : Nat) : Char := "0123456789ABCDEF".toList.getD n '0'

/-- A number of `digits` hexadecimal digits with its prefix (30_encoding.md R109; the count of digits: log 35). -/
def hexNumber (digits n : Nat) : String :=
  String.ofList ('0' :: 'x' :: (List.range digits).reverse.map fun k => hexDigit (n / 16 ^ k % 16))

/-- A register, `V0` to `VF` (30_encoding.md R109). -/
def regName (x : Reg) : String := String.ofList ['V', hexDigit x.val]

/-- A mnemonic with two operands, the destination first (30_encoding.md R109). -/
def twoOperands (name a b : String) : String := name ++ " " ++ a ++ ", " ++ b

/-- The address operand `nnn`. -/
def addrText (nnn : Addr12) : String := hexNumber 3 nnn.toNat

/-- The immediate operand `kk`. -/
def immText (kk : Byte) : String := hexNumber 2 kk.toNat

/-- The assembly text of an instruction (the table of 30_encoding.md R109). -/
def listing : Instr → String
  | .cls => "CLS"
  | .ret => "RET"
  | .sys nnn => "SYS " ++ addrText nnn
  | .jp nnn => "JP " ++ addrText nnn
  | .call nnn => "CALL " ++ addrText nnn
  | .seImm x kk => twoOperands "SE" (regName x) (immText kk)
  | .sneImm x kk => twoOperands "SNE" (regName x) (immText kk)
  | .seReg x y => twoOperands "SE" (regName x) (regName y)
  | .ldImm x kk => twoOperands "LD" (regName x) (immText kk)
  | .addImm x kk => twoOperands "ADD" (regName x) (immText kk)
  | .ldReg x y => twoOperands "LD" (regName x) (regName y)
  | .orReg x y => twoOperands "OR" (regName x) (regName y)
  | .andReg x y => twoOperands "AND" (regName x) (regName y)
  | .xorReg x y => twoOperands "XOR" (regName x) (regName y)
  | .addReg x y => twoOperands "ADD" (regName x) (regName y)
  | .subReg x y => twoOperands "SUB" (regName x) (regName y)
  | .shr x _ => "SHR " ++ regName x
  | .subn x y => twoOperands "SUBN" (regName x) (regName y)
  | .shl x _ => "SHL " ++ regName x
  | .sneReg x y => twoOperands "SNE" (regName x) (regName y)
  | .ldI nnn => twoOperands "LD" "I" (addrText nnn)
  | .jpV0 nnn => twoOperands "JP" "V0" (addrText nnn)
  | .rnd x kk => twoOperands "RND" (regName x) (immText kk)
  | .drw x y n => twoOperands "DRW" (regName x) (regName y) ++ ", " ++ hexNumber 1 n.toNat
  | .skp x => "SKP " ++ regName x
  | .sknp x => "SKNP " ++ regName x
  | .ldVxDt x => twoOperands "LD" (regName x) "DT"
  | .ldVxK x => twoOperands "LD" (regName x) "K"
  | .ldDtVx x => twoOperands "LD" "DT" (regName x)
  | .ldStVx x => twoOperands "LD" "ST" (regName x)
  | .addI x => twoOperands "ADD" "I" (regName x)
  | .ldF x => twoOperands "LD" "F" (regName x)
  | .ldB x => twoOperands "LD" "B" (regName x)
  | .storeRegs x => twoOperands "LD" "[I]" (regName x)
  | .loadRegs x => twoOperands "LD" (regName x) "[I]"

/-- The instruction that the assembly text of an instruction stands for: the shifts assemble with `y = 0`
(30_encoding.md R109), every other instruction stands for itself. -/
def assembled (i : Instr) : Instr :=
  match i with
  | .shr x _ => .shr x 0
  | .shl x _ => .shl x 0
  | other => other

end Sys2Proof.Machine
end

