-- ==== Sys2Proof/Tests/Slice0.lean ====
section
/-! SUPPORT. Tests, each on one step. The expected values are those of spec/95_test_vectors.md (the row is named),
of the encodings of 30_encoding.md R105, or worked out by hand from the rule named. Then one witness per obligation
that has hypotheses. -/

namespace Sys2Proof.Tests

open Sys2Proof Sys2Proof.Machine

/-! ### States for tests -/

/-- A started core at 0x200, with the inputs of one step: no tick, no key, random byte 0. -/
def base : State := { State.reset with pc := 0x200, runStarted := true, inputs := [StepInput.idle] }

/-- The same with `VF_WRITE_ORDER = flag_last`. -/
def baseFlagLast : State := { base with params := { defaultParams with vfWriteOrder := .flagLast } }

/-- The same with a tick elapsing in its next step. -/
def baseTick : State := { base with inputs := [{ StepInput.idle with tick := true }] }

/-- The same with the given keys held (bit k for key k), the port preferring key 0. -/
def baseKeys (keys : BitVec 16) : State := { base with inputs := [{ StepInput.idle with keyHeld := keys }] }

/-- The same with the given random byte. -/
def baseRandom (r : Byte) : State := { base with inputs := [{ StepInput.idle with rnd := r }] }

/-- `base` with values in V1, V2 and VF. -/
def regs12F (a b f : Byte) (s : State) : State := ((s.writeReg 1 a).writeReg 2 b).writeReg 15 f

/-- The next state of an outcome. -/
def nextOf : Result → Option State
  | .next t => some t
  | .fault _ => none
  | .refused _ => none

/-- The next state of one step at which the given word is fetched. -/
def ran (w : Nat) (s : State) : Option State := nextOf (step (s.withFetchWord 16 w))

/-- V1 and VF after one step. -/
def ran1F (w : Nat) (s : State) : Option (Byte × Byte) := (ran w s).map fun t => (t.readReg 1, t.readReg 15)

/-- `pc` after one step. -/
def ranPc (w : Nat) (s : State) : Option Word := (ran w s).map fun t => t.pc

/-- The fault record after one step. -/
def ranFault (w : Nat) (s : State) : Option FaultRecord := (ran w s).bind fun t => t.faultRecord

/-! ### WellFormed: each check refuses an ill-formed term (30_encoding.md R104) -/

theorem test_wf_refuses_sys_of_cls : (Instr.sys 0x0E0#12).wf = false := by decide
theorem test_wf_refuses_sys_of_ret : (Instr.sys 0x0EE#12).wf = false := by decide
theorem test_wf_accepts_other_sys : (Instr.sys 0x0E1#12).wf = true ∧ (Instr.sys 0#12).wf = true := by decide

/-! ### Decoding: every row's word written out bit by bit from its encoding (30_encoding.md R101, R105) -/

theorem test_decode_group0 :
    decodeWord 0b0000000011100000#16 = .ok .cls ∧
    decodeWord 0b0000000011101110#16 = .ok .ret ∧
    decodeWord 0b0000000000000000#16 = .ok (.sys 0x000#12) ∧
    decodeWord 0b0000000011100001#16 = .ok (.sys 0x0E1#12) ∧
    decodeWord 0b0000000011101111#16 = .ok (.sys 0x0EF#12) ∧
    decodeWord 0b0000111111111111#16 = .ok (.sys 0xFFF#12) := by decide

theorem test_decode_address_forms :
    decodeWord 0b0001001100000101#16 = .ok (.jp 0x305#12) ∧
    decodeWord 0b0010010000001110#16 = .ok (.call 0x40E#12) ∧
    decodeWord 0b1010001100000001#16 = .ok (.ldI 0x301#12) ∧
    decodeWord 0b1011111111110000#16 = .ok (.jpV0 0xFF0#12) := by decide

theorem test_decode_immediate_forms :
    decodeWord 0b0011001100010000#16 = .ok (.seImm 3 0x10#8) ∧
    decodeWord 0b0100001100010001#16 = .ok (.sneImm 3 0x11#8) ∧
    decodeWord 0b0110101000001010#16 = .ok (.ldImm 10 0x0A#8) ∧
    decodeWord 0b0111000011111111#16 = .ok (.addImm 0 0xFF#8) ∧
    decodeWord 0b1100001100001111#16 = .ok (.rnd 3 0x0F#8) := by decide

theorem test_decode_register_forms :
    decodeWord 0b0101000100100000#16 = .ok (.seReg 1 2) ∧
    decodeWord 0b1001000100100000#16 = .ok (.sneReg 1 2) ∧
    decodeWord 0b1101000100101111#16 = .ok (.drw 1 2 15#4) ∧
    decodeWord 0b1101000000000000#16 = .ok (.drw 0 0 0#4) := by decide

theorem test_decode_alu :
    decodeWord 0b1000000100100000#16 = .ok (.ldReg 1 2) ∧
    decodeWord 0b1000000100100001#16 = .ok (.orReg 1 2) ∧
    decodeWord 0b1000000100100010#16 = .ok (.andReg 1 2) ∧
    decodeWord 0b1000000100100011#16 = .ok (.xorReg 1 2) ∧
    decodeWord 0b1000000100100100#16 = .ok (.addReg 1 2) ∧
    decodeWord 0b1000000100100101#16 = .ok (.subReg 1 2) ∧
    decodeWord 0b1000000101010110#16 = .ok (.shr 1 5) ∧
    decodeWord 0b1000000100100111#16 = .ok (.subn 1 2) ∧
    decodeWord 0b1000000111111110#16 = .ok (.shl 1 15) := by decide

theorem test_decode_keys :
    decodeWord 0b1110010110011110#16 = .ok (.skp 5) ∧
    decodeWord 0b1110010110100001#16 = .ok (.sknp 5) := by decide

theorem test_decode_misc :
    decodeWord 0b1111000100000111#16 = .ok (.ldVxDt 1) ∧
    decodeWord 0b1111000000001010#16 = .ok (.ldVxK 0) ∧
    decodeWord 0b1111001000010101#16 = .ok (.ldDtVx 2) ∧
    decodeWord 0b1111001100011000#16 = .ok (.ldStVx 3) ∧
    decodeWord 0b1111010000011110#16 = .ok (.addI 4) ∧
    decodeWord 0b1111010100101001#16 = .ok (.ldF 5) ∧
    decodeWord 0b1111011000110011#16 = .ok (.ldB 6) ∧
    decodeWord 0b1111011101010101#16 = .ok (.storeRegs 7) ∧
    decodeWord 0b1111111101100101#16 = .ok (.loadRegs 15) := by decide

/-- The illegal words of section 2.1. -/
theorem test_decode_illegal :
    decodeWord 0x5121#16 = .error (.illegalSeReg 0x5121#16) ∧
    decodeWord 0x8128#16 = .error (.illegalAlu 0x8128#16) ∧
    decodeWord 0x812F#16 = .error (.illegalAlu 0x812F#16) ∧
    decodeWord 0x912F#16 = .error (.illegalSneReg 0x912F#16) ∧
    decodeWord 0xE000#16 = .error (.illegalKey 0xE000#16) ∧
    decodeWord 0xE19F#16 = .error (.illegalKey 0xE19F#16) ∧
    decodeWord 0xF000#16 = .error (.illegalMisc 0xF000#16) ∧
    decodeWord 0xF0FF#16 = .error (.illegalMisc 0xF0FF#16) ∧
    decodeWord 0xFFFF#16 = .error (.illegalMisc 0xFFFF#16) := by decide

/-- Bytes are read high byte first (20_memory.md R71), two per instruction (30_encoding.md R108). -/
theorem test_decode_bytes :
    decode [0x12#8, 0x34#8, 0x56#8] = .ok (.jp 0x234#12, [0x56#8]) ∧
    decode [0x12#8] = .error .truncated ∧
    decodeTableWord 16 0x1234 = some (.jp 0x234#12) ∧
    decodeTableWord 16 0xFFFF = none := by decide

/-- Lines of the listings of section 3, and 30_encoding.md R109 on the shifts. -/
theorem test_listing :
    listing (.seImm 0 0x00#8) = "SE V0, 0x00" ∧ listing (.jp 0x204#12) = "JP 0x204" ∧ listing (.shl 0 15) = "SHL V0" ∧
    listing (.ldB 0) = "LD B, V0" ∧ listing (.loadRegs 2) = "LD V2, [I]" ∧
    encode (assembled (.shr 1 5)) = 0x8106#16 ∧ encode (assembled (.shl 1 15)) = 0x810E#16 := by decide

/-! ### One word of each row runs as the first instruction after reset (log 9) -/

theorem test_every_row_runs_from_reset :
    ([0x00E0, 0x00EE, 0x0123, 0x1200, 0x2300, 0x3310, 0x4310, 0x5120, 0x6A0A, 0x7001, 0x8120, 0x8121] ++
     [0x8122, 0x8123, 0x8124, 0x8125, 0x8126, 0x8127, 0x812E, 0x9120, 0xA300, 0xB300, 0xC30F, 0xD011] ++
     [0xE59E, 0xE5A1, 0xF107, 0xF30A, 0xF015, 0xF218, 0xF21E, 0xF429, 0xF533, 0xF155, 0xF265]).all
      (fun w => (ran w State.reset).isSome) = true := by decide

/-! ### Construction and the host (sections 2.7 and 1; 70_reset_and_hazards.md) -/

theorem test_reset_registers :
    State.reset.pc = 0 ∧ State.reset.sp = 0 ∧ State.reset.v.toList = List.replicate 16 0 ∧
    State.reset.mode = .running ∧ State.reset.trace = [] := by decide

/-- S6: glyph A of the default font at 50. -/
theorem test_reset_font :
    State.reset.readBytes 50 5 = [0xF0, 0x90, 0xF0, 0x90, 0x90] ∧ State.reset.readBytes 78 4 = [0x80, 0x80, 0, 0] := by
  decide

/-- F1, S7: four bytes at 4094 do not fit. -/
theorem test_host_load_overflow :
    nextOf (hostLoad [1, 2, 3, 4] 4094 State.reset)
      = some { State.reset with mode := .faulted ⟨.loadOverflow 4094 4, none, none⟩ } := by decide

/-- F4: the font may be overwritten. -/
theorem test_host_load_over_font :
    nextOf (hostLoad [0x12, 0x34] 0 State.reset) = some { State.reset with mem := [(0, 0x12), (1, 0x34)] } := by decide

/-- F5 and F6: the bound of START. -/
theorem test_host_start_bound :
    nextOf (hostStart 4096 State.reset) = some { State.reset with mode := .faulted ⟨.invalidStartAddress 4096, none, none⟩ } ∧
    nextOf (hostStart 4095 State.reset) = some { State.reset with pc := 4095, runStarted := true } := by decide

/-- 70_reset_and_hazards.md R354: the entry point is the load offset if the host gives none. -/
theorem test_host_boot_default_entry :
    nextOf (hostBoot [0x12, 0x00] 0x200 none State.reset)
      = some { State.reset with mem := [(0x200, 0x12)], pc := 0x200, runStarted := true } := by decide

/-! ### Control transfer (section 2.2) -/

/-- B1 and B20. -/
theorem test_jp : ranPc 0x1300 base = some 0x300 ∧ ranPc 0x1FFF base = some 0xFFF := by decide

/-- B3, the stack written at SP with the CALL's own address. -/
theorem test_call :
    (ran 0x2400 { base with pc := 0x208 }).map (fun t => (t.stack[0], t.sp, t.pc)) = some (0x208, 1, 0x400) := by decide

/-- B6. -/
theorem test_call_overflow :
    (ran 0x2300 { base with sp := 16 }).map (fun t => (t.mode, t.sp, t.pc))
      = some (.faulted ⟨.stackOverflow, some 0x200, some 0x2300⟩, 16, 0x200) := by decide

/-- B4. -/
theorem test_ret :
    (ran 0x00EE { base with pc := 0x40A, sp := 1, stack := base.stack.set 0 0x208 }).map (fun t => (t.sp, t.pc))
      = some (0, 0x20A) := by decide

/-- B5. -/
theorem test_ret_underflow :
    ranFault 0x00EE base = some ⟨.stackUnderflow, some 0x200, some 0x00EE⟩ := by decide

/-- B18. -/
theorem test_sys : ranPc 0x0123 { base with pc := 0x300 } = some 0x302 := by decide

/-- B7 and B8. -/
theorem test_se_imm :
    ranPc 0x3310 (base.writeReg 3 0x10) = some 0x204 ∧ ranPc 0x3310 (base.writeReg 3 0x11) = some 0x202 := by decide

/-- B9 and B10. -/
theorem test_sne_imm :
    ranPc 0x4310 (base.writeReg 3 0x10) = some 0x202 ∧ ranPc 0x4310 (base.writeReg 3 0x11) = some 0x204 := by decide

/-- B11 and B12. -/
theorem test_se_reg :
    ranPc 0x5120 (regs12F 7 7 0 base) = some 0x204 ∧ ranPc 0x5120 (regs12F 7 8 0 base) = some 0x202 ∧
    ranPc 0x5110 base = some 0x204 := by decide

/-- B13 and B14. -/
theorem test_sne_reg :
    ranPc 0x9120 (regs12F 7 8 0 base) = some 0x204 ∧ ranPc 0x9110 base = some 0x202 := by decide

/-- B15, B16 and B17. -/
theorem test_jp_v0 :
    ranPc 0xB300 (base.writeReg 0 0x04) = some 0x304 ∧ ranPc 0xBFF0 (base.writeReg 0 0x20) = some 0x1010 ∧
    ranPc 0xBFFF (base.writeReg 0 0xFF) = some 0x10FE := by decide

/-- B22: an odd `pc`. -/
theorem test_odd_pc :
    (ran 0x6105 { base with pc := 0x201 }).map (fun t => (t.readReg 1, t.pc)) = some (5, 0x203) := by decide

/-! ### Registers and the ALU (section 2.3) -/

/-- A1 and A2. -/
theorem test_ld_imm :
    (ran 0x6A0A base).map (fun t => (t.readReg 10, t.pc)) = some (0x0A, 0x202) ∧
    (ran 0x6F01 (base.writeReg 15 0x33)).map (fun t => t.readReg 15) = some 0x01 := by decide

/-- A3 and A4. -/
theorem test_add_imm :
    (ran 0x7001 ((base.writeReg 0 0xFF).writeReg 15 0x07)).map (fun t => (t.readReg 0, t.readReg 15)) = some (0, 0x07) ∧
    (ran 0x70FF (base.writeReg 0 0x05)).map (fun t => t.readReg 0) = some 0x04 := by decide

/-- A5. -/
theorem test_ld_reg : (ran 0x8EF0 (base.writeReg 15 1)).map (fun t => t.readReg 14) = some 1 := by decide

/-- A6. -/
theorem test_or : ran1F 0x8121 (regs12F 0xF0 0x0F 0x09 base) = some (0xFF, 0x09) := by decide

/-- A7. -/
theorem test_and : ran1F 0x8122 (regs12F 0xF0 0x3C 0x09 base) = some (0x30, 0x09) := by decide

/-- A8. -/
theorem test_xor : ran1F 0x8123 (regs12F 0xF0 0x3C 0x09 base) = some (0xCC, 0x09) := by decide

/-- A10, A11 and A13. -/
theorem test_add_reg :
    ran1F 0x8124 (regs12F 0xFF 0x01 0 base) = some (0x00, 1) ∧
    ran1F 0x8124 (regs12F 0x80 0x7F 1 base) = some (0xFF, 0) ∧
    ran1F 0x81F4 (regs12F 0x10 0 1 base) = some (0x11, 0) := by decide

/-- W1: VF as the destination. -/
theorem test_add_reg_vf :
    ran1F 0x8F14 (regs12F 0x01 0 0xFF base) = some (0x01, 0x00) ∧
    ran1F 0x8F14 (regs12F 0x01 0 0xFF baseFlagLast) = some (0x01, 0x01) := by decide

/-- A14 and A15. -/
theorem test_sub_reg :
    ran1F 0x8125 (regs12F 0x00 0x01 1 base) = some (0xFF, 0) ∧
    ran1F 0x8115 (regs12F 0x42 0 0 base) = some (0x00, 1) := by decide

/-- W2: VF as the destination and as the source. -/
theorem test_sub_reg_vf :
    ran1F 0x8FF5 (regs12F 0 0 0x05 base) = some (0, 0x00) ∧
    ran1F 0x8FF5 (regs12F 0 0 0x05 baseFlagLast) = some (0, 0x01) := by decide

/-- A16 and A17. -/
theorem test_shr :
    ran1F 0x8106 (regs12F 0x01 0 0 base) = some (0x00, 1) ∧
    ran1F 0x8126 (regs12F 0xFF 0 0 base) = some (0x7F, 1) := by decide

/-- W3. -/
theorem test_shr_vf :
    ran1F 0x8F06 (regs12F 0 0 0x03 base) = some (0, 0x01) ∧
    ran1F 0x8F06 (regs12F 0 0 0x03 baseFlagLast) = some (0, 0x01) := by decide

/-- A18 and A19. -/
theorem test_subn :
    ran1F 0x8127 (regs12F 0x05 0x03 1 base) = some (0xFE, 0) ∧
    ran1F 0x8127 (regs12F 0x03 0x0A 0 base) = some (0x07, 1) := by decide

/-- W5. -/
theorem test_subn_vf :
    ran1F 0x8F17 (regs12F 0x03 0 0x05 base) = some (0x03, 0xFE) ∧
    ran1F 0x8F17 (regs12F 0x03 0 0x05 baseFlagLast) = some (0x03, 0x00) := by decide

/-- A21, A22, A24. -/
theorem test_shl :
    ran1F 0x810E (regs12F 0x80 0 1 base) = some (0x00, 0) ∧
    ran1F 0x810E (regs12F 0x08 0 0 base) = some (0x10, 1) ∧
    ran1F 0x810E (regs12F 0xF7 0 1 base) = some (0xEE, 0) := by decide

/-- W4. -/
theorem test_shl_vf :
    ran1F 0x8F0E (regs12F 0 0 0x08 base) = some (0, 0x10) ∧
    ran1F 0x8F0E (regs12F 0 0 0x08 baseFlagLast) = some (0, 0x01) := by decide

/-- A26 and A27. -/
theorem test_rnd :
    (ran 0xC30F (baseRandom 0xA5)).map (fun t => t.readReg 3) = some 0x05 ∧
    (ran 0xC300 (baseRandom 0xA5)).map (fun t => t.readReg 3) = some 0x00 := by decide

/-! ### Index register and memory (section 2.4) -/

/-- M2. -/
theorem test_ld_i : (ran 0xAFFF base).map (fun t => (t.i, t.pc)) = some (0x0FFF, 0x202) := by decide

/-- M3 and M4. -/
theorem test_add_i :
    (ran 0xF21E (regs12F 0 0x05 9 { base with i := 0x0FFE })).map (fun t => (t.i, t.readReg 15)) = some (0x1003, 9) ∧
    (ran 0xF01E ({ base with i := 0xFFFF }.writeReg 0 1)).map (fun t => t.i) = some 0x0000 := by decide

/-- M6 and M7. -/
theorem test_ld_f :
    (ran 0xF429 (base.writeReg 4 0x10)).map (fun t => t.i) = some 0x0050 ∧
    (ran 0xF429 (base.writeReg 4 0xFF)).map (fun t => t.i) = some 0x04FB := by decide

/-- S5 and M10. -/
theorem test_ld_b :
    (ran 0xF533 ({ base with i := 0x300 }.writeReg 5 234)).map (fun t => t.readBytes 0x300 4) = some [2, 3, 4, 0] ∧
    (ran 0xF533 ({ base with i := 0xFFD }.writeReg 5 123)).map (fun t => t.readBytes 0xFFC 4) = some [0, 1, 2, 3] := by
  decide

/-- M11. -/
theorem test_ld_b_out_of_range :
    (ran 0xF533 ({ base with i := 0xFFE }.writeReg 5 123)).map (fun t => (t.faultRecord, t.readBytes 0xFFE 2))
      = some (some ⟨.memoryOutOfRange 0x1000, some 0x200, some 0xF533⟩, [0, 0]) := by decide

/-- M12. -/
theorem test_store_regs :
    (ran 0xF155 (({ base with i := 0x300 }.writeReg 0 0x05).writeReg 1 0xFF)).map
      (fun t => (t.readBytes 0x2FF 4, t.i)) = some ([0, 0x05, 0xFF, 0], 0x300) := by decide

/-- M15 and M16. -/
theorem test_store_regs_out_of_range :
    ranFault 0xFF55 { base with i := 0xFF1 } = some ⟨.memoryOutOfRange 0x1000, some 0x200, some 0xFF55⟩ ∧
    ranFault 0xF055 { base with i := 0x1003 } = some ⟨.memoryOutOfRange 0x1003, some 0x200, some 0xF055⟩ := by decide

/-- M17 and M18. -/
theorem test_load_regs :
    (ran 0xF265 { base with i := 0x300, mem := [(0x300, 2), (0x301, 3), (0x302, 4), (0x303, 5)] }).map
      (fun t => (t.v.toList.take 4, t.i)) = some ([2, 3, 4, 0], 0x300) ∧
    (ran 0xF465 base).map (fun t => t.v.toList.take 6) = some [0xF0, 0x90, 0x90, 0x90, 0xF0, 0] := by decide

/-- M20. -/
theorem test_load_regs_out_of_range :
    ranFault 0xF265 { base with i := 0xFFE } = some ⟨.memoryOutOfRange 0x1000, some 0x200, some 0xF265⟩ := by decide

/-! ### Display (section 2.5) -/

/-- D11. -/
theorem test_cls :
    (ran 0x00E0 { base with fb := base.fb.set 3 0xFF }).map (fun t => (t.fb, t.trace))
      = some (Vector.replicate 32 0, [.presentFrame (Vector.replicate 32 0)]) := by decide

/-- D3: the pixels (60,31) (61,31) (2,31) (3,31) (60,0) (3,0). -/
theorem test_drw_wraps :
    (ran 0xD012 (({ base with i := 0x300, mem := [(0x300, 0xC3), (0x301, 0x81)] }.writeReg 0 60).writeReg 1 31)).map
      (fun t => (t.fb.toList, t.readReg 15, t.trace.length))
      = some (0x1000000000000008 :: List.replicate 30 0 ++ [0x300000000000000C], 0, 1) := by decide

/-- D6, and D9: a sprite that leaves RAM. -/
theorem test_drw_collision_and_fault :
    (ran 0xD011 { base with i := 0x300, mem := [(0x300, 0x40)], fb := base.fb.set 0 3 }).map
      (fun t => (t.fb[0], t.readReg 15)) = some (1, 1) ∧
    (ran 0xD012 { base with i := 0xFFF }).map (fun t => (t.faultRecord, t.fb, t.trace))
      = some (some ⟨.memoryOutOfRange 0x1000, some 0x200, some 0xD012⟩, base.fb, []) := by decide

/-! ### Timers and keys (section 2.6) -/

/-- T1 and T2. -/
theorem test_skp :
    ranPc 0xE59E ((baseKeys 0x0400).writeReg 5 0x0A) = some 0x204 ∧ ranPc 0xE59E (base.writeReg 5 0x0A) = some 0x202 := by
  decide

/-- T3 and T4. -/
theorem test_sknp :
    ranPc 0xE5A1 (base.writeReg 5 0x0A) = some 0x204 ∧ ranPc 0xE5A1 ((baseKeys 0x0400).writeReg 5 0x0A) = some 0x202 := by
  decide

/-- T5 and T6. -/
theorem test_invalid_key :
    ranFault 0xE59E (base.writeReg 5 0x10) = some ⟨.invalidKey 0x10, some 0x200, some 0xE59E⟩ ∧
    ranFault 0xE5A1 (base.writeReg 5 0xFF) = some ⟨.invalidKey 0xFF, some 0x200, some 0xE5A1⟩ := by decide

/-- T7 and T8. -/
theorem test_ld_vx_dt :
    (ran 0xF107 { base with dt := 3 }).map (fun t => t.readReg 1) = some 3 ∧
    (ran 0xF107 { baseTick with dt := 3 }).map (fun t => (t.dt, t.readReg 1)) = some (2, 2) := by decide

/-- T9. -/
theorem test_ld_dt_vx : (ran 0xF015 (baseTick.writeReg 0 3)).map (fun t => t.dt) = some 3 := by decide

/-- T10 and T11. -/
theorem test_ld_st_vx :
    (ran 0xF218 (base.writeReg 2 0x1E)).map (fun t => (t.st, t.trace, t.toneOn)) = some (0x1E, [.startTone], true) ∧
    (ran 0xF218 { base with st := 5, toneOn := true }).map (fun t => (t.st, t.trace, t.toneOn)) = some (0, [], true) := by
  decide

/-- T12 and T14. -/
theorem test_tick_service :
    (ran 0x1200 { baseTick with st := 1, toneOn := true }).map (fun t => (t.st, t.trace, t.toneOn))
      = some (0, [.stopTone], false) ∧
    (ran 0x1200 { baseTick with dt := 1, st := 2, toneOn := true }).map (fun t => (t.dt, t.st, t.trace, t.toneOn))
      = some (0, 1, [], true) := by decide

/-- T15. -/
theorem test_ld_vx_k : (ran 0xF30A base).map (fun t => (t.mode, t.pc)) = some (.keyWait 3, 0x200) := by decide

/-- T16: no key, the pending tick is not serviced. -/
theorem test_key_wait_goes_on :
    nextOf (step { baseTick with mode := .keyWait 3, dt := 4 })
      = some { base with
          mode := .keyWait 3, dt := 4, tickPending := true
          pins := { StepInput.idle with tick := true }, inputs := [], inputIndex := 1 } := by decide

/-- T17: of the held keys 7 and 9, the port prefers 8, which is not held, and reports 9. -/
theorem test_key_wait_ends :
    nextOf (step { base with mode := .keyWait 3, inputs := [⟨false, 0x0280, 0, 8⟩] })
      = some { base.writeReg 3 9 with pc := 0x202, pins := ⟨false, 0x0280, 0, 8⟩, inputs := [], inputIndex := 1 } := by
  decide

/-! ### Faults of the iteration (sections 1 and 2.7) -/

/-- S8 and F6. -/
theorem test_iteration_faults :
    ranFault 0xFFFF base = some ⟨.illegalInstruction, some 0x200, some 0xFFFF⟩ ∧
    nextOf (step { base with pc := 0x0FFF })
      = some { base with
          pc := 0x0FFF, mode := .faulted ⟨.programCounterOutOfRange, some 0x0FFF, none⟩
          inputs := [], inputIndex := 1 } := by decide

/-- F7: a fetch at 0xFFE reads the last two bytes of RAM. -/
theorem test_fetch_at_the_top : ranPc 0x1200 { base with pc := 0xFFE } = some 0x200 := by decide

/-- 60_exceptions.md R300 and R324: what the fault port shows of M16's fault. -/
theorem test_fault_port :
    (ran 0xF055 { base with i := 0x1003 }).map (fun t => (t.faultSignal, t.faultCode, t.faultInfo))
      = some (true, 5, 0x1003) ∧
    (ran 0xF055 { base with i := 0x1003 }).map (fun t => (t.faultPc, t.faultWord)) = some (0x200, 0xF055) := by decide

/-- 60_exceptions.md R300: F1's fault has two numbers of info and the code 1, and `fault_info` states neither (log 36). -/
theorem test_load_overflow_info :
    (FaultKind.loadOverflow 4094 4).info = [4094, 4] ∧ (FaultKind.loadOverflow 4094 4).code = 1 ∧
    (FaultKind.loadOverflow 4094 4).infoWire = none := by decide

/-! ### Witnesses: concrete states and operands that meet the hypotheses of each obligation, clause by clause, at the
ends of their ranges. A statement with no hypotheses has none. -/

/-- `base` waiting for a key to V3, with the given keys held and key 8 preferred by the port. -/
def waiting (keys : BitVec 16) : State := { base with mode := .keyWait 3, inputs := [⟨false, keys, 0, 8⟩] }

/-- `base` after a fault. -/
def stopped : State := { base with mode := .faulted ⟨.stackUnderflow, some 0x200, some 0x00EE⟩ }

/-- `base` at a JP to its own address. -/
def looping : State := { base with mem := [(0x200, 0x12)] }

theorem base_inv : base.Inv := ⟨by decide, by decide, by decide, by decide, by decide, by decide⟩

theorem witness_DecodeEncodeAgree : (Instr.sys 0xFFF#12).wf = true ∧ (Instr.drw 15 15 15#4).wf = true := by decide

theorem witness_LegalWordIsTheEncoding : decodeWord 0x00EF#16 = .ok (.sys 0x0EF#12) := by decide

theorem witness_StepRunsTheDecodedInstruction_running :
    (base.mode = .running ∧ ({ base with pc := 4095 } : State).pc.toNat ≥ 4095) ∧
    (({ base with pc := 4094 } : State).pc.toNat < 4095 ∧
      decodeWord ({ base with pc := 4094 } : State).fetchWord = .ok (.sys 0#12)) ∧
    decodeWord ({ base with mem := [(0x200, 0xFF), (0x201, 0xFF)] } : State).fetchWord
      = .error (.illegalMisc 0xFFFF#16) := by decide

theorem witness_StepRunsTheDecodedInstruction_other :
    (waiting 0).mode = .keyWait 3 ∧ stopped.mode = .faulted ⟨.stackUnderflow, some 0x200, some 0x00EE⟩ := by decide

theorem witness_TickService :
    base.tickPending = false ∧ ({ base with tickPending := true, st := 1 } : State).st = 1 ∧
    ({ base with tickPending := true, st := 0 } : State).st ≠ 1 ∧
    ({ base with tickPending := true, st := 2 } : State).tickPending = true := by decide

theorem witness_ServicedTicksCountDown : ({ base with dt := 5 } : State).dt = 5 := by decide

theorem witness_KeyWaitStepRule :
    (waiting 0).sampleInputs.pins.keyHeld = 0 ∧ (waiting 0x0280).sampleInputs.pins.keyHeld ≠ 0 ∧
    (waiting 0x0100).sampleInputs.pins.keyHeld.getLsbD (waiting 0x0100).sampleInputs.pins.keyChoice.val = true := by
  decide

theorem witness_FaultedIsTerminal : stopped.mode = .faulted ⟨.stackUnderflow, some 0x200, some 0x00EE⟩ := by decide

theorem witness_FaultsArePrecise :
    ({ base with pc := 4095 } : State).mode = .running ∧
    ∃ t, step { base with pc := 4095 } = .next t ∧
      t.mode = .faulted ⟨.programCounterOutOfRange, some 4095, none⟩ := ⟨by decide, _, rfl, by decide⟩

theorem witness_OnlyTheListedInstructionsFault_stack :
    base.faultRecord = none ∧
    (∃ t, exec .ret base = .next t ∧ t.faultRecord = some ⟨.stackUnderflow, some 0x200, some 0x00EE⟩) ∧
    (∃ t, exec (.call 0x300#12) { base with sp := 16 } = .next t ∧
      t.faultRecord = some ⟨.stackOverflow, some 0x200, some 0x2300⟩) :=
  ⟨by decide, ⟨_, rfl, by decide⟩, ⟨_, rfl, by decide⟩⟩

theorem witness_OnlyTheListedInstructionsFault_key :
    (∃ t, exec (.skp 5) (base.writeReg 5 16) = .next t ∧
      t.faultRecord = some ⟨.invalidKey 16, some 0x200, some 0xE59E⟩) ∧
    (∃ t, exec (.sknp 5) (base.writeReg 5 255) = .next t ∧
      t.faultRecord = some ⟨.invalidKey 255, some 0x200, some 0xE5A1⟩) := ⟨⟨_, rfl, by decide⟩, ⟨_, rfl, by decide⟩⟩

theorem witness_OnlyTheListedInstructionsFault_memory :
    (∃ t, exec (.ldB 5) { base with i := 4094 } = .next t ∧
      t.faultRecord = some ⟨.memoryOutOfRange 4096, some 0x200, some 0xF533⟩) ∧
    (∃ t, exec (.storeRegs 1) { base with i := 4095 } = .next t ∧
      t.faultRecord = some ⟨.memoryOutOfRange 4096, some 0x200, some 0xF155⟩) ∧
    (∃ t, exec (.loadRegs 0) { base with i := 4097 } = .next t ∧
      t.faultRecord = some ⟨.memoryOutOfRange 4097, some 0x200, some 0xF065⟩) ∧
    (∃ t, exec (.drw 0 1 1#4) { base with i := 4096 } = .next t ∧
      t.faultRecord = some ⟨.memoryOutOfRange 4096, some 0x200, some 0xD011⟩) :=
  ⟨⟨_, rfl, by decide⟩, ⟨_, rfl, by decide⟩, ⟨_, rfl, by decide⟩, ⟨_, rfl, by decide⟩⟩

theorem witness_StepStopsOnlyInFaulted : base.faultRecord = none ∧ (waiting 0).faultRecord = none := by decide

theorem witness_StepKeepsTheInvariant : base.Inv ∧ ∃ t, step base = .next t := ⟨base_inv, _, rfl⟩

theorem witness_HostOperationsKeepTheInvariant :
    State.reset.Inv ∧ (∃ t, hostLoad [0x12] 0x200 State.reset = .next t) ∧ ∃ t, hostStart 0x200 State.reset = .next t :=
  ⟨⟨by decide, by decide, by decide, by decide, by decide, by decide⟩, ⟨_, rfl⟩, ⟨_, rfl⟩⟩

theorem witness_PcNeverWraps :
    ({ base.writeReg 0 0xFF with pc := 4094, sp := 1 } : State).Inv ∧
    (∃ t, exec (.jpV0 0xFFF#12) { base.writeReg 0 0xFF with pc := 4094, sp := 1 } = .next t ∧ t.pc = 0x10FE) ∧
    (∃ t, exec (.seImm 1 0#8) { base.writeReg 0 0xFF with pc := 4094, sp := 1 } = .next t ∧ t.pc = 4098) ∧
    (∃ t, exec .ret { base.writeReg 0 0xFF with pc := 4094, sp := 1 } = .next t) ∧
    (∃ t, exec (.jp 0xFFF#12) { base.writeReg 0 0xFF with pc := 4094, sp := 1 } = .next t ∧ t.pc = 4095) :=
  ⟨⟨by decide, by decide, by decide, by decide, by decide, by decide⟩,
    ⟨_, rfl, by decide⟩, ⟨_, rfl, by decide⟩, ⟨_, rfl⟩, ⟨_, rfl, by decide⟩⟩

theorem witness_ConstructionValues : 80 ≤ (80 : Nat) := by decide

theorem witness_HostLoadRule :
    Memory.wf State.reset.params.font State.reset.mem ∧ State.reset.faultRecord = none ∧
    State.reset.runStarted = false ∧
    4095 + ([1, 2] : List Byte).length > 4096 ∧ 4094 + ([1, 2] : List Byte).length ≤ 4096 := by decide

theorem witness_HostStartRule :
    State.reset.faultRecord = none ∧ State.reset.runStarted = false ∧
    (4096 : Word).toNat ≥ 4096 ∧ (4095 : Word).toNat < 4096 ∧
    base.faultRecord = none ∧ base.runStarted = true := by decide

theorem witness_ReadReturnsTheLastWrite : Memory.wf base.params.font base.mem ∧ 4095 < 4096 := by decide

theorem witness_SysRule : (0x0EF#12 : Addr12) ≠ 0x0E0#12 ∧ (0x0EF#12 : Addr12) ≠ 0x0EE#12 := by decide

theorem witness_CallRule :
    ({ base with sp := 15 } : State).sp.val < 16 ∧ ({ base with sp := 16 } : State).sp.val = 16 := by decide

theorem witness_ReturnRule :
    ({ base with sp := 16 } : State).sp.val = (15 : Fin 16).val + 1 ∧
    ({ base with sp := 1 } : State).sp.val = (0 : Fin 16).val + 1 ∧ base.sp.val = 0 := by decide

theorem witness_ReturnUndoesCall :
    ({ base with sp := 15 } : State).sp.val < 16 ∧ ∃ t, exec (.call 0x300#12) { base with sp := 15 } = .next t :=
  ⟨by decide, _, rfl⟩

theorem witness_SkipImmediateRule : base.readReg 3 = 0#8 ∧ base.readReg 3 ≠ 0xFF#8 := by decide

theorem witness_SkipRegisterRule :
    (regs12F 7 7 0 base).readReg 1 = (regs12F 7 7 0 base).readReg 2 ∧
    (regs12F 7 8 0 base).readReg 1 ≠ (regs12F 7 8 0 base).readReg 2 := by decide

/-- For FlaggedWriteOrder, AddRegisterRule, SubtractRule and ShiftRule. -/
theorem witness_FlaggedWriteOrder :
    (14 : Reg) ≠ 15 ∧ (15 : Reg) = 15 ∧ base.params.vfWriteOrder = .resultLast ∧
    baseFlagLast.params.vfWriteOrder = .flagLast := by decide

theorem witness_RandomRule : (0x0A#8 : Byte) &&& 0x0F#8 = 0x0A#8 := by decide

theorem witness_DecimalStoreRule :
    Memory.wf base.params.font base.mem ∧ ({ base with i := 4093 } : State).i.toNat + 2 < 4096 ∧
    ({ base with i := 4094 } : State).i.toNat + 2 ≥ 4096 := by decide

/-- For StoreRegistersRule and LoadRegistersRule, with x = 15 and with x = 0. -/
theorem witness_StoreRegistersRule :
    Memory.wf base.params.font base.mem ∧ ({ base with i := 4080 } : State).i.toNat + (15 : Reg).val < 4096 ∧
    ({ base with i := 4081 } : State).i.toNat + (15 : Reg).val ≥ 4096 ∧
    ({ base with i := 4095 } : State).i.toNat + (0 : Reg).val < 4096 ∧
    ({ base with i := 4096 } : State).i.toNat + (0 : Reg).val ≥ 4096 ∧
    (0 : Reg) ≤ 15 ∧ (14 : Reg) < 15 := by decide

theorem witness_StoreIsSeenByTheNextFetch :
    Memory.wf base.params.font base.mem ∧ ({ base with pc := 4092, i := 4094 } : State).pc.toNat ≤ 4092 ∧
    ({ base with pc := 4092, i := 4094 } : State).i = ({ base with pc := 4092, i := 4094 } : State).pc + 2 ∧
    1 ≤ (1 : Reg).val ∧ ({ base with pc := 4092, i := 4094 } : State).i.toNat + (1 : Reg).val < 4096 ∧
    ∃ t, exec (.storeRegs 1) { base with pc := 4092, i := 4094 } = .next t :=
  ⟨by decide, by decide, by decide, by decide, by decide, _, rfl⟩

/-- `base` with a one-byte sprite at the top of RAM and one pixel set. -/
def drawing : State := { base with i := 4095, mem := [(4095, 0x80)], fb := base.fb.set 0 1 }

theorem witness_DrawRule_ranges :
    (drawing.i.toNat + (1#4).toNat ≤ 4096) ∧ (1#4 ≠ 0#4 ∧ ({ drawing with i := 4096 } : State).i.toNat + (1#4).toNat > 4096) ∧
    (0#4 = 0#4) := by decide

theorem witness_DrawRule_collision :
    (∃ px py, spriteCovers drawing 0 0 1 px py ∧ pixel drawing.fb px py = true) ∧
    (¬ ∃ px py, spriteCovers drawing 0 0 0 px py ∧ pixel drawing.fb px py = true) :=
  ⟨⟨0, 0, ⟨0, 0, by decide, by decide, by decide, by decide, by decide⟩, by decide⟩,
    fun ⟨_, _, ⟨_, _, h, _⟩, _⟩ => absurd h (Nat.not_lt_zero _)⟩

theorem witness_DrawTwiceRestores :
    (0 : Reg) ≠ 15 ∧ (1 : Reg) ≠ 15 ∧
    (∀ px py, pixel ({ drawing with fb := clearFramebuffer } : State).fb px py = false) ∧
    ({ drawing with fb := clearFramebuffer } : State).i.toNat + (1#4).toNat ≤ 4096 ∧
    (∃ t, exec (.drw 0 1 1#4) { drawing with fb := clearFramebuffer } = .next t) ∧
    ∃ px py, spriteCovers { drawing with fb := clearFramebuffer } 0 0 1 px py :=
  ⟨by decide, by decide, by simp [pixel, clearFramebuffer], by decide, ⟨_, rfl⟩,
    ⟨0, 0, 0, 0, by decide, by decide, by decide, by decide, by decide⟩⟩

theorem witness_SkipKeyRule :
    ((base.writeReg 5 15).readReg 5).toNat = (15 : Key).val ∧ ((base.writeReg 5 16).readReg 5).toNat > 15 := by decide

theorem witness_DelayTimerRule :
    base.mode = .running ∧ base.pc.toNat < 4095 ∧
    decodeWord ({ base with mem := [(0x200, 0xF1), (0x201, 0x07)] } : State).fetchWord = .ok (.ldVxDt 1) ∧
    decodeWord ({ base with mem := [(0x200, 0xF1), (0x201, 0x15)] } : State).fetchWord = .ok (.ldDtVx 1) := by decide

theorem witness_SoundTimerRule : (base.writeReg 2 1).readReg 2 ≠ 0 ∧ base.readReg 2 = 0 := by decide

theorem witness_OnlyListedRegistersAreWritten : ∃ t, exec (.loadRegs 3) base = .next t := ⟨_, rfl⟩

theorem witness_OnlyStoresWriteRam :
    Memory.wf base.params.font base.mem ∧ (∃ t, exec (.ldB 3) base = .next t) ∧
    (∃ t, exec (.storeRegs 3) base = .next t) ∧ ∃ t, exec (.drw 0 1 5#4) base = .next t :=
  ⟨by decide, ⟨_, rfl⟩, ⟨_, rfl⟩, ⟨_, rfl⟩⟩

theorem witness_OnlyCallAndRetTouchTheStack :
    (∃ t, exec (.call 0x300#12) base = .next t ∧ t.stack[0] ≠ base.stack[0] ∧ t.sp ≠ base.sp) ∧
    ∃ t, exec .ret { base with sp := 16 } = .next t ∧ t.sp ≠ 16 :=
  ⟨⟨_, rfl, by decide, by decide⟩, ⟨_, rfl, by decide⟩⟩

theorem witness_WritersOfTheSpecialState :
    (∃ t, exec (.ldI 0x300#12) base = .next t ∧ t.i ≠ base.i) ∧
    (∃ t, exec (.ldDtVx 1) (base.writeReg 1 1) = .next t ∧ t.dt ≠ base.dt) ∧
    (∃ t, exec (.ldStVx 1) (base.writeReg 1 1) = .next t ∧ t.st ≠ base.st) ∧
    (∃ t, exec .cls drawing = .next t ∧ t.fb ≠ drawing.fb) ∧
    (∃ t, exec (.ldVxK 1) base = .next t ∧ t.mode ≠ base.mode) :=
  ⟨⟨_, rfl, by decide⟩, ⟨_, rfl, by decide⟩, ⟨_, rfl, by decide⟩, ⟨_, rfl, by decide⟩, ⟨_, rfl, by decide⟩⟩

theorem witness_OnePortEventPerInstruction :
    (∃ t, exec (.ldStVx 1) (base.writeReg 1 1) = .next t ∧ t.trace = [.startTone]) ∧
    (∃ t, exec .cls base = .next t ∧ t.trace = [.presentFrame t.fb]) :=
  ⟨⟨_, rfl, by decide⟩, ⟨_, rfl, by decide⟩⟩

theorem witness_ParametersNeverChange : (∃ t, exec (.jp 0x300#12) base = .next t) ∧ ∃ t, step base = .next t :=
  ⟨⟨_, rfl⟩, ⟨_, rfl⟩⟩

theorem witness_TimersFallByAtMostOne :
    (∃ t, step base = .next t) ∧ base.mode = .running ∧ decodeWord base.fetchWord = .ok (.sys 0#12) ∧
    (∃ t, step (waiting 0) = .next t) ∧ (waiting 0).mode = .keyWait 3 :=
  ⟨⟨_, rfl⟩, by decide, by decide, ⟨_, rfl⟩, by decide⟩

theorem witness_SelfJumpKeepsRunning : looping.atSelfJump = true := by decide

end Sys2Proof.Tests
end

section
/-! Proofs of the scope family (00_scope.md): the parameters, the run phase and the inputs belong to the environment, and
a core that has not faulted always has a next state. -/

namespace Sys2Proof.Machine

variable {s t u : State}

/-! ### What the instructions leave to the environment (00_scope.md R6, 60_exceptions.md R323) -/

/-- `t` has the parameters, the run phase and the inputs of `s`: the fields no instruction writes. -/
def State.EnvironmentKept (s t : State) : Prop :=
  t.params = s.params ∧ t.runStarted = s.runStarted ∧ t.pins = s.pins ∧ t.inputs = s.inputs ∧
    t.inputIndex = s.inputIndex

/-- An instruction that answers `u` outright keeps the environment if `u` has it. -/
theorem State.EnvironmentKept.of_next (h : (.next u : Result) = .next t) (hu : s.EnvironmentKept u) :
    s.EnvironmentKept t := by
  injection h with h
  exact h ▸ hu

theorem State.raise_keepsEnvironment (s : State) (k : FaultKind) (w : Option Word) :
    s.EnvironmentKept (s.raise k w) := ⟨rfl, rfl, rfl, rfl, rfl⟩

/-- A flagged write, in either order, keeps the environment (41_alu.md R161). -/
theorem State.writeFlagged_keepsEnvironment {x : Reg} {r f : Byte}
    (h : (.next (s.writeFlagged x r f).advance : Result) = .next t) : s.EnvironmentKept t :=
  .of_next h (by simp [State.EnvironmentKept])

/-- A checked access keeps the environment if its result in range does. -/
theorem State.accessing_keepsEnvironment {len : Nat} {i : Instr} {done : State} (h : s.accessing len i done = .next t)
    (hd : s.EnvironmentKept done) : s.EnvironmentKept t := by
  obtain ⟨-, -, rfl⟩ | ⟨-, rfl⟩ := s.accessing_cases h
  · exact s.raise_keepsEnvironment _ _
  · exact hd

theorem State.keySkip_keepsEnvironment {key : Byte} {i : Instr} {c : Bool} (h : s.keySkip key i c = .next t) :
    s.EnvironmentKept t := by
  obtain ⟨-, rfl⟩ | ⟨-, rfl⟩ := s.keySkip_cases h
  · exact s.raise_keepsEnvironment _ _
  · exact ⟨rfl, rfl, rfl, rfl, rfl⟩

theorem execRet_keepsEnvironment (h : execRet s = .next t) : s.EnvironmentKept t := by
  obtain ⟨-, rfl⟩ | ⟨j, -, rfl⟩ := execRet_cases s h
  · exact s.raise_keepsEnvironment _ _
  · exact ⟨rfl, rfl, rfl, rfl, rfl⟩

theorem execCall_keepsEnvironment {nnn : Addr12} (h : execCall nnn s = .next t) : s.EnvironmentKept t := by
  obtain ⟨-, rfl⟩ | ⟨j, -, rfl⟩ := execCall_cases s h
  · exact s.raise_keepsEnvironment _ _
  · exact ⟨rfl, rfl, rfl, rfl, rfl⟩

theorem execLdStVx_keepsEnvironment {x : Reg} (h : execLdStVx x s = .next t) : s.EnvironmentKept t := by
  obtain ⟨-, rfl⟩ | ⟨-, rfl⟩ := execLdStVx_cases s h <;> exact ⟨rfl, rfl, rfl, rfl, rfl⟩

/-- The parameters, the run phase and the inputs are as before after every instruction: the meanings that can fault or
branch go through what their shared operation can give, the others write one state. -/
theorem exec_keepsEnvironment {i : Instr} (h : exec i s = .next t) : s.EnvironmentKept t := by
  cases i with
  | ret => exact execRet_keepsEnvironment h
  | call nnn => exact execCall_keepsEnvironment h
  | ldStVx x => exact execLdStVx_keepsEnvironment h
  | skp x => exact State.keySkip_keepsEnvironment h
  | sknp x => exact State.keySkip_keepsEnvironment h
  | drw x y n => exact State.accessing_keepsEnvironment h ⟨rfl, rfl, rfl, rfl, rfl⟩
  | ldB x => exact State.accessing_keepsEnvironment h ⟨rfl, rfl, rfl, rfl, rfl⟩
  | storeRegs x => exact State.accessing_keepsEnvironment h ⟨rfl, rfl, rfl, rfl, rfl⟩
  | loadRegs x => exact State.accessing_keepsEnvironment h (by simp [State.EnvironmentKept])
  | addReg x y => exact State.writeFlagged_keepsEnvironment h
  | subReg x y => exact State.writeFlagged_keepsEnvironment h
  | shr x y => exact State.writeFlagged_keepsEnvironment h
  | subn x y => exact State.writeFlagged_keepsEnvironment h
  | shl x y => exact State.writeFlagged_keepsEnvironment h
  | _ => exact .of_next h ⟨rfl, rfl, rfl, rfl, rfl⟩

theorem State.fetchAndExecute_keepsEnvironment (h : s.fetchAndExecute = .next t) : s.EnvironmentKept t := by
  obtain ⟨-, rfl⟩ | ⟨-, e, -, rfl⟩ | ⟨-, i, -, hexec⟩ := State.fetchAndExecute_cases h
  · exact s.raise_keepsEnvironment _ _
  · exact s.raise_keepsEnvironment _ _
  · exact exec_keepsEnvironment hexec

theorem State.keyWaitStep_keepsEnvironment (s : State) (x : Reg) : s.EnvironmentKept (s.keyWaitStep x) := by
  obtain ⟨-, hkeep⟩ | ⟨k, -, hkey⟩ := s.keyWaitStep_cases x
  · rw [hkeep]
    exact ⟨rfl, rfl, rfl, rfl, rfl⟩
  · rw [hkey]
    exact ⟨rfl, rfl, rfl, rfl, rfl⟩

/-- The environment after a step is the one its sampling of the inputs left, in either mode. -/
theorem step_keepsSampledEnvironment (h : step s = .next t) : s.sampleInputs.EnvironmentKept t := by
  obtain ⟨-, hrun⟩ | ⟨x, -, rfl⟩ := step_cases h
  · have hkept : s.beginIteration.EnvironmentKept t := State.fetchAndExecute_keepsEnvironment hrun
    -- the timer service between sampling and fetch writes none of these fields
    exact hkept
  · exact s.sampleInputs.keyWaitStep_keepsEnvironment x

/-- Settles O58: an instruction keeps the environment, and a step changes it by its sampling of the inputs alone. -/
theorem parametersNeverChange : Obligations.ParametersNeverChange :=
  ⟨fun _ _ _ h => exec_keepsEnvironment h, fun _ _ h => step_keepsSampledEnvironment h⟩

/-! ### A core that has not faulted has a next state (00_scope.md R12) -/

/-- The fetch and the execution always give a next state: each failure enters the Faulted state, and so does a fault
of the instruction. -/
theorem State.fetchAndExecute_next (s : State) : ∃ t, s.fetchAndExecute = .next t := by
  unfold State.fetchAndExecute
  split
  · exact ⟨_, rfl⟩
  · split
    · exact exec_next _ s
    · exact ⟨_, rfl⟩

/-- Settles O14, mode by mode: only a Faulted core, which has a fault record, has no step. -/
theorem stepStopsOnlyInFaulted : Obligations.StepStopsOnlyInFaulted := by
  intro s hs
  unfold step
  split
  case h_1 => exact s.beginIteration.fetchAndExecute_next
  case h_2 x => exact ⟨_, rfl⟩
  case h_3 r hfaulted => exact absurd hfaulted (State.faultRecord_eq_none.mp hs r)

end Sys2Proof.Machine
end

section
/-! Proofs of the state family (10_state.md): what an instruction can make of the state, said once, and from it which
instruction writes which part of the state and that every step keeps the invariant. -/

namespace Sys2Proof.Machine

variable {s t u : State} {i : Instr}

/-! ### What an instruction can make of the state -/

/-- The next states an instruction can give, by the parts of the state it writes. `exec_effect` ties it to `exec`. -/
inductive Effect (s : State) : Instr → State → Prop
  /-- a fault of the instruction (60_exceptions.md R304) -/
  | fault {i : Instr} (kind : FaultKind) : Effect s i (s.raise kind (some (encode i)))
  /-- general registers of the instruction's list (10_state.md R31), none for SYS -/
  | regs {i : Instr} (v : Vector Byte 16) (hv : SameRegsExcept (registersWritten i) s { s with v := v }) :
      Effect s i { s with v := v }.advance
  /-- a skip (40_control.md R130) -/
  | skip {i : Instr} (cond : Bool) : Effect s i (s.skipWhen cond)
  | jp (nnn : Addr12) : Effect s (.jp nnn) (s.jumpTo (addrTarget nnn))
  | jpV0 (nnn : Addr12) : Effect s (.jpV0 nnn) (s.jumpTo (offsetTarget nnn (s.readReg 0)))
  /-- a pop of slot `j` (40_control.md R131) -/
  | ret (j : Fin 16) (hj : s.sp.val = j.val + 1) :
      Effect s .ret { s with sp := j.castSucc, pc := s.stack[j] + 2 }
  /-- a push onto slot `j` (40_control.md R134) -/
  | call (nnn : Addr12) (j : Fin 16) (hj : s.sp.val = j.val) :
      Effect s (.call nnn) { s with stack := s.stack.set j s.pc, sp := j.succ, pc := addrTarget nnn }
  | index {i : Instr} (hi : (∃ nnn, i = .ldI nnn) ∨ ∃ x, i = .addI x ∨ i = .ldF x) (w : Word) :
      Effect s i (s.writeI w).advance
  | delay (x : Reg) : Effect s (.ldDtVx x) { s with dt := s.readReg x }.advance
  /-- ST set to zero sends no request (44_timers_keys.md R257) -/
  | silence (x : Reg) (hx : s.readReg x = 0) : Effect s (.ldStVx x) { s with st := s.readReg x }.advance
  /-- ST set to a nonzero value starts the tone (44_timers_keys.md R257) -/
  | tone (x : Reg) : Effect s (.ldStVx x) { s with st := s.readReg x }.startTone.advance
  /-- a new framebuffer, sent to the port, and VF for DRW (43_display.md R231, R232) -/
  | frame {i : Instr} (hi : i = .cls ∨ ∃ x y n, i = .drw x y n) (fb : Framebuffer) (v : Vector Byte 16)
      (hv : SameRegsExcept (registersWritten i) s { s with v := v }) :
      Effect s i { s with fb := fb, v := v }.presentFrame.advance
  /-- a store inside the RAM (42_index_memory.md R204, R205) -/
  | store {i : Instr} (hi : ∃ x, i = .ldB x ∨ i = .storeRegs x) (bs : List Byte)
      (hbs : s.i.toNat + bs.length ≤ ramSize) : Effect s i (s.storeBytes s.i.toNat bs).advance
  | wait (x : Reg) : Effect s (.ldVxK x) { s with mode := .keyWait x }

/-- An instruction that answers `u` outright has the effect `u` shows. -/
theorem Effect.of_next (h : (.next u : Result) = .next t) (hu : Effect s i u) : Effect s i t := by
  injection h with h
  exact h ▸ hu

/-- A write of one register changes no other. -/
theorem State.writeReg_sameRegsExcept {x : Reg} {rs : List Reg} (hx : x ∈ rs) (s : State) (b : Byte) :
    SameRegsExcept rs s (s.writeReg x b) := by
  intro r hr
  have hne : r ≠ x := fun e => hr (e ▸ hx)
  rw [State.readReg_writeReg, if_neg hne]

/-- A flagged write changes no register but its destination and VF (41_alu.md R161). -/
theorem State.writeFlagged_sameRegsExcept (s : State) (x : Reg) (result flag : Byte) :
    SameRegsExcept [x, 15] s (s.writeFlagged x result flag) := by
  intro r hr
  obtain ⟨hx, hf⟩ : r ≠ x ∧ r ≠ flagReg := by simpa using hr
  simp [State.readReg_writeFlagged, hx, hf]

/-- A flagged write writes registers only. -/
theorem State.writeFlagged_eq (s : State) (x : Reg) (result flag : Byte) :
    s.writeFlagged x result flag = { s with v := (s.writeFlagged x result flag).v } := by
  unfold State.writeFlagged
  cases s.params.vfWriteOrder <;> rfl

/-- A load of V0..Vx changes no higher register (42_index_memory.md R206). -/
theorem State.loadRegsUpTo_sameRegsExcept (s : State) (x : Reg) (a : Nat) :
    SameRegsExcept (registersWritten (.loadRegs x)) s (s.loadRegsUpTo x a) := by
  intro r hr
  have hgt : ¬ r.val ≤ x.val := by simpa [registersWritten] using hr
  rw [State.readReg_loadRegsUpTo, if_neg hgt]

theorem Effect.writeReg {x : Reg} (hx : x ∈ registersWritten i) (b : Byte) : Effect s i (s.writeReg x b).advance :=
  .regs _ (s.writeReg_sameRegsExcept hx b)

theorem Effect.writeFlagged {x : Reg} (hi : registersWritten i = [x, 15]) (result flag : Byte) :
    Effect s i (s.writeFlagged x result flag).advance := by
  have hv := s.writeFlagged_sameRegsExcept x result flag
  rw [State.writeFlagged_eq] at hv ⊢
  exact .regs _ (hi ▸ hv)

/-- The effect of a checked access is a fault, or that of the access in range. -/
theorem Effect.of_accessing {len : Nat} {done : State} (h : s.accessing len i done = .next t)
    (hdone : len = 0 ∨ s.i.toNat + len ≤ 4096 → Effect s i done) : Effect s i t := by
  obtain ⟨-, -, rfl⟩ | ⟨hrange, rfl⟩ := s.accessing_cases h
  · exact .fault _
  · exact hdone hrange

/-- The effect of a key skip is a fault or a skip. -/
theorem Effect.of_keySkip {key : Byte} {cond : Bool} (h : s.keySkip key i cond = .next t) : Effect s i t := by
  obtain ⟨-, rfl⟩ | ⟨-, rfl⟩ := s.keySkip_cases h
  · exact .fault _
  · exact .skip _

/-- What the meaning of an instruction can give. -/
theorem exec_effect (h : exec i s = .next t) : Effect s i t := by
  cases i with
  | cls => exact .of_next h (.frame (.inl rfl) _ s.v fun _ _ => rfl)
  | ret =>
    obtain ⟨-, rfl⟩ | ⟨j, hj, rfl⟩ := execRet_cases s h
    · exact .fault _
    · exact .ret j hj
  | sys nnn => exact .of_next h (.regs s.v fun _ _ => rfl)
  | jp nnn => exact .of_next h (.jp nnn)
  | call nnn =>
    obtain ⟨-, rfl⟩ | ⟨j, hj, rfl⟩ := execCall_cases s h
    · exact .fault _
    · exact .call nnn j hj
  | jpV0 nnn => exact .of_next h (.jpV0 nnn)
  | seImm x kk | sneImm x kk | seReg x y | sneReg x y => exact .of_next h (.skip _)
  | skp x | sknp x => exact .of_keySkip h
  | ldImm x kk | addImm x kk | ldReg x y | orReg x y | andReg x y | xorReg x y | rnd x kk | ldVxDt x =>
    exact .of_next h (.writeReg (List.mem_singleton_self x) _)
  | addReg x y | subReg x y | shr x y | subn x y | shl x y => exact .of_next h (.writeFlagged rfl _ _)
  | ldI nnn => exact .of_next h (.index (.inl ⟨nnn, rfl⟩) _)
  | addI x => exact .of_next h (.index (.inr ⟨x, .inl rfl⟩) _)
  | ldF x => exact .of_next h (.index (.inr ⟨x, .inr rfl⟩) _)
  | drw x y n =>
    exact .of_accessing h fun _ =>
      .frame (.inr ⟨x, y, n, rfl⟩) _ _ (s.writeReg_sameRegsExcept (List.mem_singleton_self flagReg) _)
  | ldVxK x => exact .of_next h (.wait x)
  | ldDtVx x => exact .of_next h (.delay x)
  | ldStVx x =>
    obtain ⟨hx, rfl⟩ | ⟨-, rfl⟩ := execLdStVx_cases s h
    · exact .silence x hx
    · exact .tone x
  | ldB x =>
    refine .of_accessing h fun hrange => .store ⟨x, .inl rfl⟩ _ ?_
    rw [length_bcdDigits, ramSize]
    omega
  | storeRegs x =>
    refine .of_accessing h fun hrange => .store ⟨x, .inr rfl⟩ _ ?_
    rw [State.length_regsUpTo, ramSize]
    omega
  | loadRegs x => exact .of_accessing h fun _ => .regs _ (s.loadRegsUpTo_sameRegsExcept x _)

/-! ### Which instruction writes which part of the state -/

/-- Settles O53: only the effects on registers and of DRW write a general register, each within the list. -/
theorem onlyListedRegistersAreWritten : Obligations.OnlyListedRegistersAreWritten := by
  intro i s t h
  cases exec_effect h with
  | regs v hv => exact hv
  | frame hi fb v hv => exact hv
  | _ => exact fun _ _ => rfl

/-- A slot after a write of slot `j`. -/
theorem stackSlot_set (stack : Vector Word 16) (j k : Fin 16) (w : Word) :
    (stack.set j w)[k] = if k = j then w else stack[k] := by
  rcases eq_or_ne k j with rfl | hne
  · simp
  · have hval : j.val ≠ k.val := fun e => hne (Fin.ext e.symm)
    simp [hne, hval]

/-- Settles O55: a pop moves SP alone, a push moves SP and writes its slot, and no other effect does either. -/
theorem onlyCallAndRetTouchTheStack : Obligations.OnlyCallAndRetTouchTheStack := by
  intro i s t h
  cases exec_effect h with
  | ret j hj => exact ⟨fun k hk => absurd rfl hk, fun _ => .inr ⟨rfl, hj⟩⟩
  | call nnn j hj =>
    refine ⟨fun k hk => ⟨⟨nnn, rfl⟩, ?_⟩, fun _ => .inl ⟨nnn, rfl, ?_⟩⟩
    · have hkj : k = j := by
        by_contra hne
        exact hk ((stackSlot_set ..).trans (if_neg hne))
      rw [hkj, hj]
    · rw [Fin.val_succ, hj]
  | _ => exact ⟨fun k hk => absurd rfl hk, fun hsp => absurd rfl hsp⟩

/-- Settles O56, part by part: the effects that write it come from the instructions named, every other keeps it. -/
theorem writersOfTheSpecialState : Obligations.WritersOfTheSpecialState := by
  intro i s t h
  have heffect := exec_effect h
  refine ⟨fun hindex => ?_, fun hdelay => ?_, fun hsound => ?_, fun hfb => ?_, fun hmode => ?_, ?_⟩
  · cases heffect with
    | index hi w => exact hi
    | _ => exact absurd rfl hindex
  · cases heffect with
    | delay x => exact ⟨x, rfl⟩
    | _ => exact absurd rfl hdelay
  · cases heffect with
    | silence x hx => exact ⟨x, rfl⟩
    | tone x => exact ⟨x, rfl⟩
    | _ => exact absurd rfl hsound
  · cases heffect with
    | frame hi fb v hv => exact hi
    | _ => exact absurd rfl hfb
  · cases heffect with
    | wait x => exact .inl ⟨x, rfl, rfl⟩
    | fault kind => exact .inr ⟨_, rfl⟩
    | _ => exact absurd rfl hmode
  · cases heffect <;> rfl

/-! ### The values of `pc` (10_state.md R36) -/

theorem addrTarget_le (nnn : Addr12) : (addrTarget nnn).toNat ≤ 4095 := by
  rw [addrTarget_toNat]
  omega

theorem offsetTarget_le (nnn : Addr12) (b : Byte) : (offsetTarget nnn b).toNat ≤ 0x10FE := by
  rw [offsetTarget_toNat]
  omega

/-- The instruction after a fetched one starts at 4096 at most. -/
theorem pc_add_two_le {pc : Word} (h : pc.toNat ≤ 4094) : (pc + 2).toNat ≤ 4096 := by
  rw [pc_add_two (by omega)]
  omega

theorem skipWhen_pc_le {cond : Bool} (h : s.pc.toNat ≤ 4094) : (s.skipWhen cond).pc.toNat ≤ 4098 := by
  cases cond with
  | false => exact (pc_add_two_le h).trans (by decide)
  | true =>
    show (s.pc + 4).toNat ≤ 4098
    rw [pc_add_four (by omega)]
    omega

/-- The slot a RET pops holds the address of a CALL (10_state.md R36). -/
theorem State.Inv.popped_le (hs : s.Inv) {j : Fin 16} (hj : s.sp.val = j.val + 1) : (s.stack[j] + 2).toNat ≤ 4096 :=
  pc_add_two_le (hs.returns j (by omega))

/-- Only `Bnnn` leaves `pc` above 4098. -/
theorem exec_pc_le (hs : s.Inv) (hpc : s.pc.toNat ≤ 4094) (h : exec i s = .next t) :
    t.pc.toNat ≤ 4098 ∨ (∃ nnn, i = .jpV0 nnn) ∧ t.pc.toNat ≤ 0x10FE := by
  have hadvance : (s.pc + 2).toNat ≤ 4098 := (pc_add_two_le hpc).trans (by decide)
  have hstay : s.pc.toNat ≤ 4098 := hpc.trans (by decide)
  cases exec_effect h with
  | fault kind => exact .inl hstay
  | wait x => exact .inl hstay
  | skip cond => exact .inl (skipWhen_pc_le hpc)
  | jp nnn => exact .inl ((addrTarget_le nnn).trans (by decide))
  | call nnn j hj => exact .inl ((addrTarget_le nnn).trans (by decide))
  | ret j hj => exact .inl ((hs.popped_le hj).trans (by decide))
  | jpV0 nnn => exact .inr ⟨⟨nnn, rfl⟩, offsetTarget_le nnn _⟩
  | _ => exact .inl hadvance

theorem execRet_pc_le (hs : s.Inv) (hpc : s.pc.toNat ≤ 4094) (h : execRet s = .next t) : t.pc.toNat ≤ 4096 := by
  obtain ⟨-, rfl⟩ | ⟨j, hj, rfl⟩ := execRet_cases s h
  · exact hpc.trans (by decide)
  · exact hs.popped_le hj

theorem execCall_pc_le {nnn : Addr12} (hpc : s.pc.toNat ≤ 4094) (h : execCall nnn s = .next t) :
    t.pc.toNat ≤ 4095 := by
  obtain ⟨-, rfl⟩ | ⟨j, -, rfl⟩ := execCall_cases s h
  · exact hpc.trans (by decide)
  · exact addrTarget_le nnn

theorem execJp_pc_le {nnn : Addr12} (h : execJp nnn s = .next t) : t.pc.toNat ≤ 4095 := by
  injection h with h
  subst h
  exact addrTarget_le nnn

/-- Settles O18: a skip reaches furthest but for `Bnnn`, whose sum is at most 0xFFF + 0xFF. -/
theorem pcNeverWraps : Obligations.PcNeverWraps := by
  intro i s t hs hpc h
  refine ⟨?_, fun hi => ?_, ?_, ?_⟩
  · obtain hle | ⟨-, hle⟩ := exec_pc_le hs hpc h
    · exact hle.trans (by decide)
    · exact hle
  · obtain hle | ⟨⟨nnn, hjp⟩, -⟩ := exec_pc_le hs hpc h
    · exact hle
    · exact absurd hjp (hi nnn)
  · rintro rfl
    exact execRet_pc_le hs hpc h
  · rintro nnn (rfl | rfl)
    · exact execJp_pc_le h
    · exact execCall_pc_le hpc h

/-! ### An instruction keeps the invariant, clause by clause -/

theorem Effect.keepsMemoryWf (h : Effect s i t) (hs : Memory.wf s.params.font s.mem) :
    Memory.wf t.params.font t.mem := by
  cases h with
  | store hi bs hbs => exact Memory.writeBytes_wf _ hs hbs
  | _ => exact hs

/-- A core that an instruction leaves waiting stands where it fetched that instruction. -/
theorem Effect.waitPc_le (h : Effect s i t) (hrun : s.mode = .running) (hpc : s.pc.toNat ≤ 4094) :
    t.keyWaitSignal = true → t.pc.toNat ≤ 4094 := by
  have hnot : s.keyWaitSignal ≠ true := by simp [State.keyWaitSignal, hrun]
  cases h with
  | fault kind => exact fun _ => hpc
  | wait x => exact fun _ => hpc
  | _ => exact fun hwait => absurd hwait hnot

/-- A push below `pc` 4095 and a pop leave only return addresses below 4095 in use. -/
theorem Effect.keepsReturns (h : Effect s i t) (hpc : s.pc.toNat ≤ 4094)
    (hs : ∀ j : Fin 16, j.val < s.sp.val → s.stack[j].toNat ≤ 4094) :
    ∀ j : Fin 16, j.val < t.sp.val → t.stack[j].toNat ≤ 4094 := by
  cases h with
  | ret k hk =>
    intro j hj
    have hj' : j.val < k.val := hj
    exact hs j (by omega)
  | call nnn k hk =>
    intro j hj
    have hj' : j.val < k.val + 1 := hj
    show ((s.stack.set k s.pc)[j]).toNat ≤ 4094
    rw [stackSlot_set]
    split
    · exact hpc
    · exact hs j (by omega)
  | _ => exact hs

theorem Effect.keepsTone (h : Effect s i t) (hs : s.st ≠ 0 → s.toneOn = true) : t.st ≠ 0 → t.toneOn = true := by
  cases h with
  | silence x hx => exact fun hst => absurd hx hst
  | tone x => exact fun _ => rfl
  | _ => exact hs

/-- An instruction records the requests it sends; a frame is none. -/
theorem Effect.keepsToneRecord (h : Effect s i t) (hs : s.toneOn = lastToneRequest s.trace) :
    t.toneOn = lastToneRequest t.trace := by
  cases h with
  | tone x => exact (lastToneRequest_append s.trace .startTone).symm
  | frame hi fb v hv => exact hs.trans (lastToneRequest_append s.trace (.presentFrame fb)).symm
  | _ => exact hs

/-- An instruction that a Running core has fetched keeps the invariant. -/
theorem exec_keepsInv (hs : s.Inv) (hrun : s.mode = .running) (hpc : s.pc.toNat ≤ 4094) (h : exec i s = .next t) :
    t.Inv where
  memory := (exec_effect h).keepsMemoryWf hs.memory
  pcBound := (pcNeverWraps i s t hs hpc h).1
  waitPc := (exec_effect h).waitPc_le hrun hpc
  returns := (exec_effect h).keepsReturns hpc hs.returns
  toneWhileSt := (exec_effect h).keepsTone hs.toneWhileSt
  toneRecorded := (exec_effect h).keepsToneRecord hs.toneRecorded

/-! ### The other parts of a step -/

theorem State.raise_keepsInv (hs : s.Inv) (kind : FaultKind) (word : Option Word) : (s.raise kind word).Inv :=
  { hs with waitPc := fun hwait => nomatch hwait }

theorem State.sampleInputs_keepsInv (hs : s.Inv) : s.sampleInputs.Inv := { hs with }

/-- The tick that stops the tone is the one that takes ST to zero (70_reset_and_hazards.md R361). -/
theorem State.serviceTick_keepsTone (hs : s.st ≠ 0 → s.toneOn = true) :
    s.serviceTick.st ≠ 0 → s.serviceTick.toneOn = true := by
  intro hst
  have hne : s.st ≠ 0 := by
    intro hzero
    exact hst (by simp [hzero, timerAfterTick])
  have hgoes : s.stopsTone = false := by
    by_contra hstop
    obtain ⟨htick, hone⟩ : s.tickPending = true ∧ s.st = 1 := by simpa [State.stopsTone] using hstop
    exact hst (by simp [htick, hone, timerAfterTick])
  simp [hgoes, hs hne]

theorem State.serviceTick_keepsToneRecord (hs : s.toneOn = lastToneRequest s.trace) :
    s.serviceTick.toneOn = lastToneRequest s.serviceTick.trace := by
  rw [State.serviceTick_toneOn, State.serviceTick_trace]
  split
  · exact (lastToneRequest_append s.trace .stopTone).symm
  · exact hs

theorem State.serviceTick_keepsInv (hs : s.Inv) : s.serviceTick.Inv :=
  { hs with
    toneWhileSt := State.serviceTick_keepsTone hs.toneWhileSt
    toneRecorded := State.serviceTick_keepsToneRecord hs.toneRecorded }

theorem State.fetchAndExecute_keepsInv (hs : s.Inv) (hrun : s.mode = .running) (h : s.fetchAndExecute = .next t) :
    t.Inv := by
  obtain ⟨-, rfl⟩ | ⟨-, e, -, rfl⟩ | ⟨hpc, i, -, hexec⟩ := State.fetchAndExecute_cases h
  · exact State.raise_keepsInv hs _ _
  · exact State.raise_keepsInv hs _ _
  · exact exec_keepsInv hs hrun hpc hexec

/-- The end of a wait leaves the `Fx0A` for the instruction after it (44_timers_keys.md R255). -/
theorem State.keyWaitStep_keepsInv {x : Reg} (hs : s.Inv) (hwait : s.mode = .keyWait x) : (s.keyWaitStep x).Inv := by
  obtain ⟨-, hkeep⟩ | ⟨k, -, hkey⟩ := s.keyWaitStep_cases x
  · rwa [hkeep]
  · have hpc : s.pc.toNat ≤ 4094 := hs.waitPc (by simp [State.keyWaitSignal, hwait])
    rw [hkey]
    exact { hs with
      pcBound := (pc_add_two_le hpc).trans (by decide)
      waitPc := fun h => nomatch h }

/-- Settles O15, mode by mode: the sampling, the timer service and what follows them each keep the invariant. -/
theorem stepKeepsTheInvariant : Obligations.StepKeepsTheInvariant := by
  intro s t hs h
  have hsampled := State.sampleInputs_keepsInv hs
  obtain ⟨hrun, hiter⟩ | ⟨x, hwait, rfl⟩ := step_cases h
  · exact State.fetchAndExecute_keepsInv (State.serviceTick_keepsInv hsampled) hrun hiter
  · exact State.keyWaitStep_keepsInv hsampled hwait

/-! ### The pending tick and the constructed state -/

/-- Settles O9: what the sampling makes of the tick and the pins, and that it writes its four fields only. -/
theorem pendingTickSaturates : Obligations.PendingTickSaturates :=
  fun s => ⟨s.sampleInputs_tickPending, s.sampleInputs_pins, rfl⟩

/-- A constructed machine has no cell off its background, `pc` 0, no used stack slot, and no tone. -/
theorem State.construct_inv (p : Params) : (State.construct p).Inv where
  memory := ⟨.nil, fun _ hc => nomatch hc⟩
  pcBound := Nat.zero_le _
  waitPc := fun hwait => nomatch hwait
  returns := fun _ hj => absurd hj (Nat.not_lt_zero _)
  toneWhileSt := fun hst => absurd rfl hst
  toneRecorded := rfl

/-- Settles O16: reset is construction with the default parameters. -/
theorem constructionMeetsTheInvariant : Obligations.ConstructionMeetsTheInvariant :=
  ⟨State.construct_inv, State.construct_inv defaultParams⟩

end Sys2Proof.Machine
end

section
/-! Proofs of the memory family (20_memory.md): a store is read back and leaves every other byte alone, a fetch sees it,
and no instruction but the two stores writes RAM. -/

namespace Sys2Proof.Machine

variable {s t : State} {i : Instr}

/-! ### Reading bytes after a store -/

@[simp] theorem State.readByte_advance (s : State) (a : Nat) : s.advance.readByte a = s.readByte a := rfl

/-- The k-th stored byte stands k places after the start of the store. -/
theorem State.readByte_storeBytes_inside (hm : Memory.wf s.params.font s.mem) (a : Nat) {bs : List Byte} {k : Nat}
    (hk : k < bs.length) : (s.storeBytes a bs).readByte (a + k) = bs[k] := by
  have hin : a ≤ a + k ∧ a + k - a < bs.length := by omega
  rw [s.readByte_storeBytes hm, dif_pos hin]
  simp only [Nat.add_sub_cancel_left]

/-- A store keeps every byte outside it. -/
theorem State.storeBytes_sameMemoryOutside (hm : Memory.wf s.params.font s.mem) (a : Nat) (bs : List Byte) :
    SameMemoryOutside a bs.length s (s.storeBytes a bs) := by
  intro a' hout
  have hnot : ¬ (a ≤ a' ∧ a' - a < bs.length) := by omega
  rw [s.readByte_storeBytes hm, dif_neg hnot]

/-- Settles O22: the reads of a store of one byte, which stays inside the RAM. -/
theorem readReturnsTheLastWrite : Obligations.ReadReturnsTheLastWrite := by
  intro s a b hm ha
  have hinside : a + [b].length ≤ ramSize := ha
  exact ⟨State.readByte_storeBytes_inside hm a (k := 0) (by simp), State.storeBytes_sameMemoryOutside hm a [b],
    Memory.writeBytes_wf _ hm hinside⟩

/-! ### The fetch (20_memory.md R71, R84) -/

theorem State.fetchWord_toNat (s : State) :
    s.fetchWord.toNat = 256 * (s.readByte s.pc.toNat).toNat + (s.readByte (s.pc.toNat + 1)).toNat :=
  wordOfBytes_toNat _ _

/-- Settles O5: the value of the word made of the two bytes a fetch reads. -/
theorem fetchIsBigEndian : Obligations.FetchIsBigEndian := State.fetchWord_toNat

/-- `Fx55` in range stores V0..Vx and moves on (42_index_memory.md R205). -/
theorem exec_storeRegs_inRange {x : Reg} (h : s.i.toNat + x.val < 4096) :
    exec (.storeRegs x) s = .next (s.storeBytes s.i.toNat (s.regsUpTo x)).advance :=
  s.accessing_inRange (.inr h) _ _

/-- After a store of V0..Vx, Vk stands k places after its start. -/
theorem State.readByte_storeBytes_regsUpTo (hm : Memory.wf s.params.font s.mem) (a : Nat) {x k : Reg} (hk : k ≤ x) :
    (s.storeBytes a (s.regsUpTo x)).readByte (a + k.val) = s.readReg k := by
  have hlen : k.val < (s.regsUpTo x).length := by
    rw [State.length_regsUpTo]
    exact Nat.lt_succ_of_le hk
  rw [State.readByte_storeBytes_inside hm a hlen, State.getElem_regsUpTo]

/-- Settles O45: with I = pc + 2 the next fetch reads the places of V0 and V1. -/
theorem storeIsSeenByTheNextFetch : Obligations.StoreIsSeenByTheNextFetch := by
  intro x s t hm hpc hi hx hrange h
  rw [exec_storeRegs_inRange hrange] at h
  injection h with h
  subst h
  set stored := s.storeBytes s.i.toNat (s.regsUpTo x)
  have hhigh : stored.readByte s.i.toNat = s.readReg 0 :=
    State.readByte_storeBytes_regsUpTo hm s.i.toNat (k := 0) (Fin.zero_le x)
  have hlow : stored.readByte (s.i.toNat + 1) = s.readReg 1 :=
    State.readByte_storeBytes_regsUpTo hm s.i.toNat (k := 1) hx
  have hnext : stored.advance.pc = s.i := hi.symm
  refine ⟨rfl, ?_⟩
  rw [State.fetchWord_toNat, hnext, State.readByte_advance, State.readByte_advance, hhigh, hlow]

/-! ### Only the stores write RAM (20_memory.md R72) -/

/-- A checked store of `len` bytes at I keeps every byte outside them: in range it writes them alone, out of range it
faults before any write (20_memory.md R74). -/
theorem State.accessing_storeBytes_sameMemoryOutside (hm : Memory.wf s.params.font s.mem) {len : Nat} {bs : List Byte}
    (hlen : bs.length = len) (h : s.accessing len i (s.storeBytes s.i.toNat bs).advance = .next t) :
    SameMemoryOutside (effectiveAddr s 0) len s t := by
  obtain ⟨-, -, rfl⟩ | ⟨-, rfl⟩ := s.accessing_cases h
  · exact fun _ _ => rfl
  · exact hlen ▸ State.storeBytes_sameMemoryOutside hm s.i.toNat bs

/-- An effect that is no store keeps every byte. -/
theorem Effect.sameMemory (h : Effect s i t) (hi : ∀ x, i ≠ .ldB x ∧ i ≠ .storeRegs x) : SameMemory s t := by
  cases h with
  | store hstore bs hbs =>
    obtain ⟨x, hx | hx⟩ := hstore
    · exact absurd hx (hi x).1
    · exact absurd hx (hi x).2
  | _ => exact fun _ => rfl

/-- Settles O54: the two stores are checked stores of 3 and of x + 1 bytes, every other effect keeps the RAM. -/
theorem onlyStoresWriteRam : Obligations.OnlyStoresWriteRam := by
  intro i s t hm h
  refine ⟨?_, ?_, (exec_effect h).sameMemory⟩
  · rintro x rfl
    exact State.accessing_storeBytes_sameMemoryOutside hm (length_bcdDigits _) h
  · rintro x rfl
    exact State.accessing_storeBytes_sameMemoryOutside hm (s.length_regsUpTo x) h

end Sys2Proof.Machine
end

section
/-! Proofs of the encoding family (30_encoding.md): the decoder and the encoder are inverse to each other on the legal
words and the well-formed instructions, and the words without an instruction are those of R106. -/

namespace Sys2Proof

variable {w : Word} {i : Instr}

/-! ### Decoding the word of an instruction -/

/-- The opcode of the word selects the arm of the instruction, and the arm reads its operands back from the fields of
the format. Only SYS needs its condition (30_encoding.md R104, R105). -/
theorem decodeWord_encode (h : i.wf = true) : decodeWord (encode i) = .ok i := by
  cases i with
  | cls | ret => rfl
  | sys nnn => simp [encode, decodeWord, opNibble_formatNnn, decodeGroup0_sys nnn h]
  | jp nnn | call nnn | ldI nnn | jpV0 nnn =>
    simp [encode, decodeWord, opNibble_formatNnn, fieldNnn_formatNnn]
  | seImm x kk | sneImm x kk | ldImm x kk | addImm x kk | rnd x kk =>
    simp [encode, decodeWord, opNibble_formatXkk, fieldX_formatXkk, fieldKk_formatXkk]
  | seReg x y | sneReg x y | drw x y n =>
    simp [encode, decodeWord, opNibble_formatXyn, fieldX_formatXyn, fieldY_formatXyn, fieldN_formatXyn]
  | ldReg x y | orReg x y | andReg x y | xorReg x y | addReg x y | subReg x y | shr x y | subn x y | shl x y =>
    simp [encode, decodeWord, decodeGroup8, opNibble_formatXyn, fieldX_formatXyn, fieldY_formatXyn, fieldN_formatXyn]
  | skp x | sknp x =>
    simp [encode, decodeWord, decodeGroupE, opNibble_formatXkk, fieldX_formatXkk, fieldKk_formatXkk]
  | ldVxDt x | ldVxK x | ldDtVx x | ldStVx x | addI x | ldF x | ldB x | storeRegs x | loadRegs x =>
    simp [encode, decodeWord, decodeGroupF, opNibble_formatXkk, fieldX_formatXkk, fieldKk_formatXkk]

/-- Settles O1, constructor by constructor. -/
theorem decodeEncodeAgree : Obligations.DecodeEncodeAgree := fun _ => decodeWord_encode

/-! ### Encoding what a word decodes to -/

/-- The opcode and `nnn` of a word make it up again. -/
theorem formatNnn_fields {op : Nibble} (hop : (opNibble w).toNat = op.toNat) : formatNnn op (fieldNnn w) = w := by
  apply BitVec.eq_of_toNat_eq
  rw [formatNnn_toNat, ← hop, opNibble_toNat, fieldNnn_toNat]
  omega

/-- The opcode, `x` and `kk` of a word make it up again. -/
theorem formatXkk_fields {op : Nibble} {kk : Byte} (hop : (opNibble w).toNat = op.toNat)
    (hkk : (fieldKk w).toNat = kk.toNat) : formatXkk op (fieldX w) kk = w := by
  apply BitVec.eq_of_toNat_eq
  rw [formatXkk_toNat, ← hop, ← hkk, opNibble_toNat, fieldX_val, fieldKk_toNat]
  omega

/-- The opcode, `x`, `y` and `n` of a word make it up again. -/
theorem formatXyn_fields {op n : Nibble} (hop : (opNibble w).toNat = op.toNat)
    (hn : (fieldN w).toNat = n.toNat) : formatXyn op (fieldX w) (fieldY w) n = w := by
  apply BitVec.eq_of_toNat_eq
  rw [formatXyn_toNat, ← hop, ← hn, opNibble_toNat, fieldX_val, fieldY_val, fieldN_toNat]
  omega

/-- The arms of group 0: SYS is what is neither the word of CLS nor that of RET (30_encoding.md R104). -/
theorem encode_decodeGroup0 (hop : (opNibble w).toNat = 0x0) :
    (decodeGroup0 w).wf = true ∧ encode (decodeGroup0 w) = w := by
  have hsys : formatNnn 0x0#4 (fieldNnn w) = w := formatNnn_fields hop
  unfold decodeGroup0
  split_ifs with hcls hret
  · exact ⟨rfl, hcls.symm⟩
  · exact ⟨rfl, hret.symm⟩
  · have hne : fieldNnn w ≠ 0x0E0#12 ∧ fieldNnn w ≠ 0x0EE#12 :=
      ⟨fun h => hcls (by rw [← hsys, h]; rfl), fun h => hret (by rw [← hsys, h]; rfl)⟩
    exact ⟨by simpa [Instr.wf] using hne, hsys⟩

/-- The arms of group 8 put `n` back as the function of format XY (30_encoding.md R105). -/
theorem encode_of_decodeGroup8 (hop : (opNibble w).toNat = 0x8) (h : decodeGroup8 w = .ok i) :
    i.wf = true ∧ encode i = w := by
  unfold decodeGroup8 at h
  split at h <;> cases h <;> exact ⟨rfl, formatXyn_fields hop ‹_›⟩

/-- The arms of group E put `kk` back as the function of format X (30_encoding.md R105). -/
theorem encode_of_decodeGroupE (hop : (opNibble w).toNat = 0xE) (h : decodeGroupE w = .ok i) :
    i.wf = true ∧ encode i = w := by
  unfold decodeGroupE at h
  split at h <;> cases h <;> exact ⟨rfl, formatXkk_fields hop ‹_›⟩

/-- The arms of group F put `kk` back as the function of format X (30_encoding.md R105). -/
theorem encode_of_decodeGroupF (hop : (opNibble w).toNat = 0xF) (h : decodeGroupF w = .ok i) :
    i.wf = true ∧ encode i = w := by
  unfold decodeGroupF at h
  split at h <;> cases h <;> exact ⟨rfl, formatXkk_fields hop ‹_›⟩

/-- Settles O2, arm by arm of the opcode map: the fields an arm reads are all that its opcode leaves of the word.
Arm `h_k` is the one of opcode k - 1. -/
theorem legalWordIsTheEncoding : Obligations.LegalWordIsTheEncoding := by
  intro w i h
  unfold decodeWord at h
  split at h
  case h_1 hop => cases h; exact encode_decodeGroup0 hop
  case h_6 hop | h_10 hop =>
    split_ifs at h with hn
    cases h
    exact ⟨rfl, formatXyn_fields hop (congrArg BitVec.toNat hn)⟩
  case h_9 hop => exact encode_of_decodeGroup8 hop h
  case h_15 hop => exact encode_of_decodeGroupE hop h
  case h_16 =>
    have hop : (opNibble w).toNat = 0xF := by
      have := (opNibble w).isLt
      grind
    exact encode_of_decodeGroupF hop h
  case h_2 hop | h_3 hop | h_11 hop | h_12 hop => cases h; exact ⟨rfl, formatNnn_fields hop⟩
  case h_4 hop | h_5 hop | h_7 hop | h_8 hop | h_13 hop => cases h; exact ⟨rfl, formatXkk_fields hop rfl⟩
  case h_14 hop => cases h; exact ⟨rfl, formatXyn_fields hop rfl⟩

/-! ### The words without an instruction (30_encoding.md R106) -/

theorem fieldN_eq_zero_iff : fieldN w = 0 ↔ w.toNat % 16 = 0 := by
  rw [← fieldN_toNat, ← BitVec.toNat_inj]
  rfl

/-- Group 8 refuses what its nine arms leave of the sixteen values of `n`. -/
theorem decodeGroup8_refuses_iff :
    (∃ e, decodeGroup8 w = .error e) ↔ w.toNat % 16 ∈ [0x8, 0x9, 0xA, 0xB, 0xC, 0xD, 0xF] := by
  rw [← fieldN_toNat]
  unfold decodeGroup8
  split
  case h_10 =>
    have hn : (fieldN w).toNat ∈ [0x8, 0x9, 0xA, 0xB, 0xC, 0xD, 0xF] := by
      have := (fieldN w).isLt
      simp only [List.mem_cons, List.not_mem_nil]
      grind
    exact iff_of_true ⟨_, rfl⟩ hn
  all_goals simp [*]

/-- Group E refuses what is none of its two values of `kk`. -/
theorem decodeGroupE_refuses_iff :
    (∃ e, decodeGroupE w = .error e) ↔ w.toNat % 256 ∉ [0x9E, 0xA1] := by
  rw [← fieldKk_toNat]
  unfold decodeGroupE
  split <;> simp_all

/-- Group F refuses what is none of its nine values of `kk`. -/
theorem decodeGroupF_refuses_iff :
    (∃ e, decodeGroupF w = .error e) ↔
      w.toNat % 256 ∉ [0x07, 0x0A, 0x15, 0x18, 0x1E, 0x29, 0x33, 0x55, 0x65] := by
  rw [← fieldKk_toNat]
  unfold decodeGroupF
  split <;> simp_all

/-- Settles O3, arm by arm of the opcode map: opcodes 5 and 9 look at `n`, the groups 8, E and F refuse what they do not
list, and the other arms refuse nothing. Arm `h_k` is the one of opcode k - 1. -/
theorem illegalWordsAreTheFiveClasses : Obligations.IllegalWordsAreTheFiveClasses := by
  intro w
  rw [← opNibble_toNat]
  unfold decodeWord
  split
  case h_6 hop | h_10 hop =>
    split_ifs with hn <;> rw [fieldN_eq_zero_iff] at hn <;> simp [hop, hn]
  case h_9 hop => simp [hop, decodeGroup8_refuses_iff]
  case h_15 hop => simp [hop, decodeGroupE_refuses_iff]
  case h_16 =>
    have hop : (opNibble w).toNat = 0xF := by
      have := (opNibble w).isLt
      grind
    simp [hop, decodeGroupF_refuses_iff]
  all_goals simp [*]

/-- Settles O4, by running the decoder. -/
theorem decodeVectors : Obligations.DecodeVectors := by
  unfold Obligations.DecodeVectors
  decide

end Sys2Proof
end

section
/-! Proofs of the control family (40_control.md): the jumps, the stack instructions and the skips, each from the word
it decodes from to the state it answers. -/

namespace Sys2Proof

/-- A word that is the encoding of a well-formed instruction decodes to it. The `ofNat_format` lemmas give the words
the rules write as numbers (30_encoding.md R101). -/
theorem decodeWord_of_eq_encode {w : Word} {i : Instr} (hw : w = encode i) (hi : i.wf = true) :
    decodeWord w = .ok i :=
  hw ▸ decodeWord_encode hi

end Sys2Proof

namespace Sys2Proof.Machine

variable {s : State} {nnn : Addr12}

/-! ### The stack: RET and CALL answered by the value of SP (40_control.md R131, R134) -/

theorem exec_ret_pops {j : Fin 16} (hj : s.sp.val = j.val + 1) :
    exec .ret s = .next { s with sp := j.castSucc, pc := s.stack[j] + 2 } := by
  obtain ⟨t, ht⟩ := exec_next .ret s
  obtain ⟨hempty, -⟩ | ⟨k, hk, rfl⟩ := execRet_cases s ht
  · omega
  · obtain rfl : k = j := Fin.ext (by omega)
    exact ht

theorem exec_ret_underflows (hempty : s.sp.val = 0) :
    exec .ret s = .next (s.raise .stackUnderflow (some (encode .ret))) := by
  obtain ⟨t, ht⟩ := exec_next .ret s
  obtain ⟨-, rfl⟩ | ⟨k, hk, -⟩ := execRet_cases s ht
  · exact ht
  · omega

theorem exec_call_pushes {j : Fin 16} (hj : s.sp.val = j.val) :
    exec (.call nnn) s = .next { s with stack := s.stack.set j s.pc, sp := j.succ, pc := addrTarget nnn } := by
  obtain ⟨t, ht⟩ := exec_next (.call nnn) s
  obtain ⟨hfull, -⟩ | ⟨k, hk, rfl⟩ := execCall_cases s ht
  · omega
  · obtain rfl : k = j := Fin.ext (by omega)
    exact ht

theorem exec_call_overflows (hfull : s.sp.val = 16) :
    exec (.call nnn) s = .next (s.raise .stackOverflow (some (encode (.call nnn)))) := by
  obtain ⟨t, ht⟩ := exec_next (.call nnn) s
  obtain ⟨-, rfl⟩ | ⟨k, hk, -⟩ := execCall_cases s ht
  · exact ht
  · omega

/-- Settles O27: the CALL writes its own `pc` to slot `j` and sets SP to `j + 1`, so the RET pops that slot. -/
theorem returnUndoesCall : Obligations.ReturnUndoesCall := by
  intro nnn s t u hsp hcall husp hustack
  obtain ⟨hfull, -⟩ | ⟨j, hj, rfl⟩ := execCall_cases s hcall
  · omega
  · have hpop : u.sp.val = j.val + 1 := congrArg Fin.val husp
    have hslot : u.stack[j] = s.pc := by
      rw [hustack, stackSlot_set, if_pos rfl]
    exact ⟨_, exec_ret_pops hpop, congrArg (· + 2) hslot, Fin.ext hj.symm, rfl⟩

/-- Settles O26: RET pops slot `j` at SP = j + 1 and underflows at SP = 0. -/
theorem returnRule : Obligations.ReturnRule := fun _ =>
  ⟨decodeWord_encode (i := .ret) rfl, fun _ hj => ⟨_, exec_ret_pops hj, rfl, rfl, rfl⟩, exec_ret_underflows⟩

/-- Settles O25: CALL pushes onto slot `j` at SP = j below 16 and overflows at SP = 16, with its word in the record. -/
theorem callRule : Obligations.CallRule := by
  intro nnn s
  have hword : BitVec.ofNat 16 (0x2000 + nnn.toNat) = encode (.call nnn) := ofNat_formatNnn 0x2#4 nnn
  refine ⟨decodeWord_of_eq_encode hword rfl, fun hsp => ?_, fun hfull => ?_⟩
  · obtain ⟨j, hj⟩ : ∃ j : Fin 16, s.sp.val = j.val := ⟨⟨_, hsp⟩, rfl⟩
    refine ⟨_, exec_call_pushes hj, fun k => ?_, congrArg (· + 1) hj.symm, addrTarget_toNat nnn, rfl⟩
    simp only [stackSlot_set, hj, Fin.ext_iff]
  · rw [hword]
    exact exec_call_overflows hfull

/-! ### The jumps and SYS (40_control.md R132, R133, R139) -/

/-- Settles O23: outside the words of CLS and RET, the word decodes to SYS, which only advances. -/
theorem sysRule : Obligations.SysRule := by
  intro nnn s hcls hret
  have hwf : (Instr.sys nnn).wf = true := by simp [Instr.wf, hcls, hret]
  have hword : BitVec.ofNat 16 nnn.toNat = encode (.sys nnn) := by
    simpa [encode] using ofNat_formatNnn 0x0#4 nnn
  exact ⟨decodeWord_of_eq_encode hword hwf, rfl⟩

/-- Settles O24: the target of JP is `nnn`, zero-extended. -/
theorem jumpRule : Obligations.JumpRule := fun nnn _ =>
  ⟨decodeWord_of_eq_encode (ofNat_formatNnn 0x1#4 nnn) rfl, _, rfl, addrTarget_toNat nnn, rfl⟩

/-- Settles O30: the 16-bit sum of `nnn` and V0 does not wrap. -/
theorem jumpOffsetRule : Obligations.JumpOffsetRule := fun nnn s =>
  ⟨decodeWord_of_eq_encode (ofNat_formatNnn 0xB#4 nnn) rfl, _, rfl, offsetTarget_toNat nnn (s.readReg 0), rfl⟩

/-! ### The skips on a comparison of two bytes (40_control.md R135 to R138) -/

/-- On equal bytes SE skips and SNE does not. -/
theorem State.skipWhen_of_eq (s : State) {a b : Byte} (h : a = b) :
    (.next (s.skipWhen (a == b)) : Result) = .next { s with pc := s.pc + 4 } ∧
    (.next (s.skipWhen (a != b)) : Result) = .next { s with pc := s.pc + 2 } := by
  rw [beq_iff_eq.mpr h, bne_eq_false_iff_eq.mpr h]
  exact ⟨rfl, rfl⟩

/-- On different bytes SNE skips and SE does not. -/
theorem State.skipWhen_of_ne (s : State) {a b : Byte} (h : a ≠ b) :
    (.next (s.skipWhen (a == b)) : Result) = .next { s with pc := s.pc + 2 } ∧
    (.next (s.skipWhen (a != b)) : Result) = .next { s with pc := s.pc + 4 } := by
  rw [beq_eq_false_iff_ne.mpr h, bne_iff_ne.mpr h]
  exact ⟨rfl, rfl⟩

/-- Settles O28: the bytes compared are Vx and `kk`. -/
theorem skipImmediateRule : Obligations.SkipImmediateRule := fun x kk s =>
  ⟨decodeWord_of_eq_encode (ofNat_formatXkk 0x3#4 x kk) rfl, decodeWord_of_eq_encode (ofNat_formatXkk 0x4#4 x kk) rfl,
    s.skipWhen_of_eq, s.skipWhen_of_ne⟩

/-- Settles O29: the bytes compared are Vx and Vy. -/
theorem skipRegisterRule : Obligations.SkipRegisterRule := fun x y s =>
  ⟨decodeWord_of_eq_encode (ofNat_formatXyn 0x5#4 x y 0x0#4) rfl,
    decodeWord_of_eq_encode (ofNat_formatXyn 0x9#4 x y 0x0#4) rfl, s.skipWhen_of_eq, s.skipWhen_of_ne⟩

end Sys2Proof.Machine
end

section
/-! Proofs of the ALU family (41_alu.md): the register writes with pc + 2, plain and flagged, each said once, and the
values of the results and the flags. -/

namespace Sys2Proof

/-- A word of format XY, written as its opcode and function plus the register fields, is the word of the format
(30_encoding.md R101). -/
theorem ofNat_formatXy (op n : Nibble) (x y : Reg) :
    BitVec.ofNat 16 (4096 * op.toNat + n.toNat + 256 * x.val + 16 * y.val) = formatXyn op x y n := by
  rw [← ofNat_formatXyn]
  congr 1
  omega

end Sys2Proof

namespace Sys2Proof.Machine

variable {s : State}

/-! ### A register write and `pc + 2` -/

/-- An advance after a change of registers changes nothing but them and `pc`. -/
theorem State.advance_onlyRegsAndPc {rs : List Reg} {v : Vector Byte 16}
    (hv : SameRegsExcept rs s { s with v := v }) : OnlyRegsAndPc rs s ({ s with v := v } : State).advance :=
  ⟨hv, fun _ => rfl, rfl⟩

theorem State.writeReg_advance_onlyRegsAndPc (s : State) (x : Reg) (b : Byte) :
    OnlyRegsAndPc [x] s (s.writeReg x b).advance :=
  State.advance_onlyRegsAndPc (s.writeReg_sameRegsExcept (List.mem_singleton_self x) b)

theorem State.writeFlagged_advance_onlyRegsAndPc (s : State) (x : Reg) (result flag : Byte) :
    OnlyRegsAndPc [x, 15] s (s.writeFlagged x result flag).advance := by
  have hv := s.writeFlagged_sameRegsExcept x result flag
  rw [State.writeFlagged_eq] at hv ⊢
  exact State.advance_onlyRegsAndPc hv

/-- Settles O31: LD writes its immediate. -/
theorem loadImmediateRule : Obligations.LoadImmediateRule := fun x kk s =>
  ⟨decodeWord_of_eq_encode (ofNat_formatXkk 0x6#4 x kk) rfl, _, rfl, s.readReg_writeReg_self x kk, rfl,
    s.writeReg_advance_onlyRegsAndPc x kk⟩

/-- Settles O33: LD writes what Vy held. -/
theorem copyRegisterRule : Obligations.CopyRegisterRule := fun x y s =>
  ⟨decodeWord_of_eq_encode (ofNat_formatXyn 0x8#4 x y 0x0#4) rfl, _, rfl, s.readReg_writeReg_self x _, rfl,
    s.writeReg_advance_onlyRegsAndPc x _⟩

/-- Settles O34: the written byte is the OR, AND or XOR of two bytes, whose bits the library gives. -/
theorem logicRule : Obligations.LogicRule := by
  intro x y s
  refine ⟨decodeWord_of_eq_encode (ofNat_formatXy 0x8#4 0x1#4 x y) rfl,
    decodeWord_of_eq_encode (ofNat_formatXy 0x8#4 0x2#4 x y) rfl,
    decodeWord_of_eq_encode (ofNat_formatXy 0x8#4 0x3#4 x y) rfl,
    ⟨_, rfl, fun b => ?_, rfl, s.writeReg_advance_onlyRegsAndPc x _⟩,
    ⟨_, rfl, fun b => ?_, rfl, s.writeReg_advance_onlyRegsAndPc x _⟩,
    ⟨_, rfl, fun b => ?_, rfl, s.writeReg_advance_onlyRegsAndPc x _⟩⟩
  · rw [State.readReg_advance, State.readReg_writeReg_self, BitVec.getLsbD_or]
  · rw [State.readReg_advance, State.readReg_writeReg_self, BitVec.getLsbD_and]
  · rw [State.readReg_advance, State.readReg_writeReg_self, BitVec.getLsbD_xor]

/-- Settles O39: RND writes the AND of the random byte and `kk`; a byte with only bits of `kk` is the result when it is
the random byte itself. -/
theorem randomRule : Obligations.RandomRule := by
  intro x kk s
  refine ⟨decodeWord_of_eq_encode (ofNat_formatXkk 0xC#4 x kk) rfl,
    ⟨_, rfl, fun b => ?_, rfl, s.writeReg_advance_onlyRegsAndPc x _⟩,
    fun r hr => ⟨r, _, rfl, (State.readReg_writeReg_self _ x _).trans hr⟩⟩
  rw [State.readReg_advance, State.readReg_writeReg_self, BitVec.getLsbD_and]

/-! ### The results and the flags as numbers (41_alu.md R160, 10_state.md R32) -/

section
variable (a b : Byte)

/-- The low byte of the exact sum. -/
theorem exactSum_lowByte_toNat : (BitVec.ofNat 8 (exactSum a b)).toNat = (a.toNat + b.toNat) % 256 :=
  BitVec.toNat_ofNat ..

theorem difference_toNat : (a - b).toNat = (a.toNat + 256 - b.toNat) % 256 := by
  rw [BitVec.toNat_sub]
  omega

theorem shiftRight_one_toNat : (a >>> 1).toNat = a.toNat / 2 := by
  rw [BitVec.toNat_ushiftRight, Nat.shiftRight_eq_div_pow, pow_one]

theorem shiftLeft_one_toNat : (a <<< 1).toNat = 2 * a.toNat % 256 := by
  rw [BitVec.toNat_shiftLeft, Nat.shiftLeft_eq, pow_one, Nat.mul_comm]

theorem flagByte_decide_toNat (p : Prop) [Decidable p] : (flagByte (decide p)).toNat = if p then 1 else 0 := by
  rw [flagByte_toNat, Bool.toNat, Bool.cond_decide]

theorem carryFlag_toNat : (carryFlag a b).toNat = if a.toNat + b.toNat > 255 then 1 else 0 :=
  flagByte_decide_toNat _

theorem noBorrowFlag_toNat : (noBorrowFlag a b).toNat = if a.toNat ≥ b.toNat then 1 else 0 :=
  flagByte_decide_toNat _

theorem flagByte_getLsbD_toNat (k : Nat) : (flagByte (a.getLsbD k)).toNat = a.toNat / 2 ^ k % 2 := by
  rw [flagByte_toNat]
  exact Nat.toNat_testBit ..

theorem shrFlag_toNat : (shrFlag a).toNat = a.toNat % 2 := by
  rw [shrFlag, flagByte_getLsbD_toNat, pow_zero, Nat.div_one]

theorem shlFlag_toNat : (shlFlag a).toNat = a.toNat / 8 % 2 := flagByte_getLsbD_toNat a 3

end

/-- Settles O32: the sum of Vx and `kk` is written modulo 256, and no flag. -/
theorem addImmediateRule : Obligations.AddImmediateRule := by
  intro x kk s
  refine ⟨decodeWord_of_eq_encode (ofNat_formatXkk 0x7#4 x kk) rfl, _, rfl, ?_, rfl,
    s.writeReg_advance_onlyRegsAndPc x _⟩
  rw [State.readReg_advance, State.readReg_writeReg_self, exactSum_lowByte_toNat]

/-! ### The flagged write (41_alu.md R161) -/

/-- Settles O35: the destination and VF are different registers unless x = 15, where the later write stays. -/
theorem flaggedWriteOrder : Obligations.FlaggedWriteOrder := by
  intro s x r f
  refine ⟨fun hx => ⟨?_, ?_⟩, ?_, ?_, s.writeFlagged_sameRegsExcept x r f, s.writeFlagged_eq x r f⟩
  · rw [State.readReg_writeFlagged, if_pos ⟨rfl, fun h => absurd h hx⟩]
  · rw [State.readReg_writeFlagged, if_neg fun h => hx h.1.symm, if_pos rfl]
  · rintro rfl hlast
    rw [State.readReg_writeFlagged, if_pos ⟨rfl, fun _ => hlast⟩]
  · rintro rfl hlast
    have hnot : s.params.vfWriteOrder ≠ .resultLast := by simp [hlast]
    rw [State.readReg_writeFlagged, if_neg fun h => hnot (h.2 rfl), if_pos rfl]

/-- The flagged write of an instruction with the result and the flag as numbers: what the rules of `8xy4` to `8xyE` say
(41_alu.md R168 to R172), for any result and flag. -/
theorem State.writeFlagged_advance_toNat (s : State) (x : Reg) {result flag : Byte} {m n : Nat}
    (hresult : result.toNat = m) (hflag : flag.toNat = n) :
    let t := (s.writeFlagged x result flag).advance
    (x ≠ 15 → (t.readReg x).toNat = m ∧ (t.readReg 15).toNat = n) ∧
    (x = 15 → s.params.vfWriteOrder = .resultLast → (t.readReg 15).toNat = m) ∧
    (x = 15 → s.params.vfWriteOrder = .flagLast → (t.readReg 15).toNat = n) ∧
    t.pc = s.pc + 2 ∧ OnlyRegsAndPc [x, 15] s t := by
  subst hresult hflag
  obtain ⟨hboth, hresultLast, hflagLast, -, -⟩ := flaggedWriteOrder s x result flag
  exact ⟨fun hx => (hboth hx).imp (congrArg BitVec.toNat) (congrArg BitVec.toNat),
    fun hx ho => congrArg BitVec.toNat (hresultLast hx ho),
    fun hx ho => congrArg BitVec.toNat (hflagLast hx ho),
    congrArg (· + 2) (s.writeFlagged_pc x result flag),
    s.writeFlagged_advance_onlyRegsAndPc x result flag⟩

/-- Settles O36: the result is the low byte of the sum, the flag the carry. -/
theorem addRegisterRule : Obligations.AddRegisterRule := fun x y s =>
  ⟨decodeWord_of_eq_encode (ofNat_formatXy 0x8#4 0x4#4 x y) rfl, _, rfl,
    s.writeFlagged_advance_toNat x (exactSum_lowByte_toNat _ _) (carryFlag_toNat _ _)⟩

/-- Settles O37: SUBN is SUB with the operands exchanged, in the difference and in the flag. -/
theorem subtractRule : Obligations.SubtractRule := fun x y s =>
  ⟨decodeWord_of_eq_encode (ofNat_formatXy 0x8#4 0x5#4 x y) rfl,
    decodeWord_of_eq_encode (ofNat_formatXy 0x8#4 0x7#4 x y) rfl,
    ⟨_, rfl, s.writeFlagged_advance_toNat x (difference_toNat _ _) (noBorrowFlag_toNat _ _)⟩,
    ⟨_, rfl, s.writeFlagged_advance_toNat x (difference_toNat _ _) (noBorrowFlag_toNat _ _)⟩⟩

/-- Settles O38: the flag of SHR is bit 0 and that of SHL bit 3; neither result reads Vy. -/
theorem shiftRule : Obligations.ShiftRule := fun x y s =>
  ⟨decodeWord_of_eq_encode (ofNat_formatXy 0x8#4 0x6#4 x y) rfl,
    decodeWord_of_eq_encode (ofNat_formatXy 0x8#4 0xE#4 x y) rfl,
    ⟨_, rfl, s.writeFlagged_advance_toNat x (shiftRight_one_toNat _) (shrFlag_toNat _)⟩,
    ⟨_, rfl, s.writeFlagged_advance_toNat x (shiftLeft_one_toNat _) (shlFlag_toNat _)⟩⟩

end Sys2Proof.Machine
end

section
/-! Proofs of the index and memory family (42_index_memory.md): the writes of I, and the loads and stores from I on, in
range and out of range. -/

namespace Sys2Proof

/-- A word of format X, written as its opcode and function plus the register field, is the word of the format
(30_encoding.md R101). -/
theorem ofNat_formatX (op : Nibble) (kk : Byte) (x : Reg) :
    BitVec.ofNat 16 (4096 * op.toNat + kk.toNat + 256 * x.val) = formatXkk op x kk := by
  rw [← ofNat_formatXkk, Nat.add_right_comm]

end Sys2Proof

namespace Sys2Proof.Machine

variable {s : State} {x : Reg}

/-! ### The writes of I (42_index_memory.md R201 to R203) -/

/-- Settles O40: the address written to I is `nnn`, zero-extended, or five times Vx, which does not wrap. -/
theorem setIndexRule : Obligations.SetIndexRule := fun nnn x s =>
  ⟨decodeWord_of_eq_encode (ofNat_formatNnn 0xA#4 nnn) rfl,
    decodeWord_of_eq_encode (ofNat_formatX 0xF#4 0x29#8 x) rfl,
    ⟨_, rfl, addrTarget_toNat nnn, rfl⟩, ⟨_, rfl, glyphAddress_toNat (s.readReg x), rfl⟩⟩

/-- Settles O41: the sum of I and Vx is written as a 16-bit word. -/
theorem addIndexRule : Obligations.AddIndexRule := fun x _ =>
  ⟨decodeWord_of_eq_encode (ofNat_formatX 0xF#4 0x1E#8 x) rfl, _, rfl, BitVec.toNat_ofNat .., rfl⟩

/-! ### The fault of a load or a store (20_memory.md R74) -/

/-- A checked access whose last byte is out of range faults, with the word of the instruction in the record. -/
theorem State.accessing_lastOutOfRange {i : Instr} {w : Word} {k : Nat} (hw : w = encode i)
    (hout : s.i.toNat + k ≥ 4096) (done : State) :
    s.accessing (k + 1) i done = .next (s.raise (.memoryOutOfRange (max s.i.toNat 4096)) (some w)) :=
  hw ▸ s.accessing_outOfRange (Nat.succ_pos k) (Nat.lt_succ_of_le hout) i done

/-! ### The decimal digits (42_index_memory.md R204) -/

/-- After a store of the digits of a byte, they stand at three successive addresses; each fits a byte. -/
theorem State.readByte_storeBytes_bcdDigits (hm : Memory.wf s.params.font s.mem) (a : Nat) (b : Byte) :
    let t := s.storeBytes a (bcdDigits b)
    (t.readByte a).toNat = b.toNat / 100 ∧ (t.readByte (a + 1)).toNat = b.toNat / 10 % 10 ∧
      (t.readByte (a + 2)).toNat = b.toNat % 10 := by
  have hread {k : Nat} (hk : k < 3) :
      ((s.storeBytes a (bcdDigits b)).readByte (a + k)).toNat = (bcdDigits b)[k].toNat :=
    congrArg BitVec.toNat (State.readByte_storeBytes_inside hm a hk)
  refine ⟨(hread (k := 0) (by decide)).trans ?_, (hread (k := 1) (by decide)).trans ?_,
    (hread (k := 2) (by decide)).trans ?_⟩ <;>
    exact (BitVec.toNat_ofNat ..).trans (Nat.mod_eq_of_lt (by omega))

/-- `Fx33` in range stores the three digits of Vx and moves on (42_index_memory.md R204). -/
theorem exec_ldB_inRange (h : s.i.toNat + 2 < 4096) :
    exec (.ldB x) s = .next (s.storeBytes s.i.toNat (bcdDigits (s.readReg x))).advance :=
  s.accessing_inRange (.inr h) _ _

/-- Settles O42: in range the digits of Vx are read back and nothing else was stored; out of range the check faults. -/
theorem decimalStoreRule : Obligations.DecimalStoreRule := by
  intro x s
  have hword : BitVec.ofNat 16 (0xF033 + 256 * x.val) = encode (.ldB x) := ofNat_formatX 0xF#4 0x33#8 x
  refine ⟨decodeWord_of_eq_encode hword rfl, fun hm hrange => ?_, fun hout => ?_⟩
  · obtain ⟨hhundreds, htens, hunits⟩ := State.readByte_storeBytes_bcdDigits hm s.i.toNat (s.readReg x)
    exact ⟨_, exec_ldB_inRange hrange, hhundreds, htens, hunits,
      State.storeBytes_sameMemoryOutside hm s.i.toNat (bcdDigits (s.readReg x)), rfl⟩
  · exact State.accessing_lastOutOfRange hword hout _

/-! ### The registers stored and loaded (42_index_memory.md R205, R206) -/

/-- Settles O43: in range V0..Vx are read back and nothing else was stored; out of range the check faults. -/
theorem storeRegistersRule : Obligations.StoreRegistersRule := by
  intro x s
  have hword : BitVec.ofNat 16 (0xF055 + 256 * x.val) = encode (.storeRegs x) := ofNat_formatX 0xF#4 0x55#8 x
  refine ⟨decodeWord_of_eq_encode hword rfl, fun hm hrange => ?_, fun hout => ?_⟩
  · have houtside := State.storeBytes_sameMemoryOutside hm s.i.toNat (s.regsUpTo x)
    rw [State.length_regsUpTo] at houtside
    exact ⟨_, exec_storeRegs_inRange hrange,
      fun _ hk => State.readByte_storeBytes_regsUpTo hm s.i.toNat hk, houtside, rfl⟩
  · exact State.accessing_lastOutOfRange hword hout _

/-- `Fx65` in range loads V0..Vx and moves on (42_index_memory.md R206). -/
theorem exec_loadRegs_inRange (h : s.i.toNat + x.val < 4096) :
    exec (.loadRegs x) s = .next (s.loadRegsUpTo x s.i.toNat).advance :=
  s.accessing_inRange (.inr h) _ _

/-- Settles O44: in range the registers up to x are loaded, those above kept; out of range the check faults. -/
theorem loadRegistersRule : Obligations.LoadRegistersRule := by
  intro x s
  have hword : BitVec.ofNat 16 (0xF065 + 256 * x.val) = encode (.loadRegs x) := ofNat_formatX 0xF#4 0x65#8 x
  refine ⟨decodeWord_of_eq_encode hword rfl, fun hrange => ?_, fun hout => ?_⟩
  · exact ⟨_, exec_loadRegs_inRange hrange,
      fun k hk => (s.readReg_loadRegsUpTo x k s.i.toNat).trans (if_pos hk),
      fun k hk => (s.readReg_loadRegsUpTo x k s.i.toNat).trans (if_neg (Nat.not_le_of_lt hk)),
      fun _ => rfl, rfl⟩
  · exact State.accessing_lastOutOfRange hword hout _

end Sys2Proof.Machine
end

section
/-! Proofs of the display family (43_display.md): the cleared framebuffer, what a draw in range does to the pixels and
to VF, its fault, and that a second draw undoes the first. -/

namespace Sys2Proof.Machine

variable {s t : State} {x y : Reg} {n : Nibble}

/-! ### The framebuffer as its pixels (10_state.md R43) -/

theorem pixel_clearFramebuffer (px : Fin 64) (py : Fin 32) : pixel clearFramebuffer px py = false := by
  simp [pixel, clearFramebuffer]

/-- A framebuffer is its pixels. -/
theorem framebuffer_ext {fb fb' : Framebuffer} (h : ∀ px py, pixel fb px py = pixel fb' px py) : fb = fb' := by
  apply Vector.ext
  intro py hpy
  apply BitVec.eq_of_getLsbD_eq
  intro px hpx
  exact h ⟨px, hpx⟩ ⟨py, hpy⟩

/-- Settles O46: the buffer sent is the cleared one. -/
theorem clearScreenRule : Obligations.ClearScreenRule := fun _ =>
  ⟨decodeWord_of_eq_encode (i := .cls) rfl rfl, _, rfl, pixel_clearFramebuffer, rfl, rfl⟩

/-! ### A draw in range (43_display.md R232, R233) -/

/-- The pixel (px, py) lies under the sprite `Dxyn` draws in the state `s`. -/
abbrev State.drwCovers (s : State) (x y : Reg) (n : Nibble) : Fin 64 → Fin 32 → Prop :=
  spriteCovers s (s.readReg x).toNat (s.readReg y).toNat n.toNat

/-- The framebuffer and the collision of `Dxyn`. -/
def State.drwRows (s : State) (x y : Reg) (n : Nibble) : Framebuffer × Bool :=
  drawRows s.fb (s.readReg x).toNat (s.readReg y).toNat (s.readBytes s.i.toNat n.toNat)

/-- `Dxyn` in range writes the framebuffer and VF, sends the frame and moves on. -/
theorem exec_drw_inRange (h : n = 0 ∨ s.i.toNat + n.toNat ≤ 4096) :
    exec (.drw x y n) s = .next
      ({ s with fb := (s.drwRows x y n).1 }.writeReg flagReg
        (collisionFlag (s.drwRows x y n).2)).presentFrame.advance :=
  s.accessing_inRange (h.imp_left (congrArg BitVec.toNat)) _ _

/-- A sprite has at most 15 rows, so no line is drawn twice (R234). -/
theorem State.length_drwBytes_le (s : State) (n : Nibble) : (s.readBytes s.i.toNat n.toNat).length ≤ 32 := by
  have hn : n.toNat < 16 := n.isLt
  have hlen : (s.readBytes s.i.toNat n.toNat).length = n.toNat := Memory.length_readBytes ..
  omega

/-- `Dxyn` toggles the covered pixels. -/
theorem State.pixel_drwRows_covered {px : Fin 64} {py : Fin 32} (h : s.drwCovers x y n px py) :
    pixel (s.drwRows x y n).1 px py = !pixel s.fb px py :=
  (pixel_drawRows _ _ _ _ (s.length_drwBytes_le n) px py).1 ((rowsCover_readBytes ..).mpr h)

/-- `Dxyn` keeps the other pixels. -/
theorem State.pixel_drwRows_uncovered {px : Fin 64} {py : Fin 32} (h : ¬ s.drwCovers x y n px py) :
    pixel (s.drwRows x y n).1 px py = pixel s.fb px py :=
  (pixel_drawRows _ _ _ _ (s.length_drwBytes_le n) px py).2 (mt (rowsCover_readBytes ..).mp h)

/-- The collision of `Dxyn`: a covered pixel was set. -/
theorem State.drwRows_hit :
    (s.drwRows x y n).2 = true ↔ ∃ px py, s.drwCovers x y n px py ∧ pixel s.fb px py = true := by
  simp only [State.drwRows, drawRows_hit _ _ _ _ (s.length_drwBytes_le n), rowsCover_readBytes]

/-- Settles O47: in range the pixels and the collision are those of the rows read at I; out of range the check faults. -/
theorem drawRule : Obligations.DrawRule := by
  intro x y n s
  have hword : BitVec.ofNat 16 (0xD000 + 256 * x.val + 16 * y.val + n.toNat) = encode (.drw x y n) :=
    ofNat_formatXyn 0xD#4 x y n
  refine ⟨decodeWord_of_eq_encode hword rfl, fun hrange => ?_, fun ⟨hn, hout⟩ => ?_⟩
  · refine ⟨_, exec_drw_inRange hrange, fun _ _ => State.pixel_drwRows_covered,
      fun _ _ => State.pixel_drwRows_uncovered, fun hhit => ?_, fun hmiss => ?_,
      State.writeReg_sameRegsExcept (List.mem_singleton_self flagReg) _ _, fun _ => rfl, rfl, rfl⟩
    · exact (State.readReg_writeReg_self _ flagReg _).trans (congrArg collisionFlag (State.drwRows_hit.mpr hhit))
    · have hfalse : (s.drwRows x y n).2 = false := Bool.eq_false_of_not_eq_true (mt State.drwRows_hit.mp hmiss)
      exact (State.readReg_writeReg_self _ flagReg _).trans (congrArg collisionFlag hfalse)
  · have hpos : 0 < n.toNat := Nat.pos_of_ne_zero fun h => hn (BitVec.eq_of_toNat_eq h)
    rw [hword]
    exact s.accessing_outOfRange hpos hout _ _

/-! ### The same draw again (43_display.md R235) -/

/-- The sprite depends on I and the RAM alone. -/
theorem spriteCovers_congr (hmem : SameMemory s t) (hi : t.i = s.i) (x0 y0 n : Nat) :
    spriteCovers t x0 y0 n = spriteCovers s x0 y0 n := by
  unfold spriteCovers effectiveAddr
  simp only [hi, hmem _]

/-- Settles O48: on a clear screen the toggled pixels are the set ones and none collides; the second draw covers the
same pixels, toggles each back and collides at any of them. -/
theorem drawTwiceRestores : Obligations.DrawTwiceRestores := by
  intro x y n s t hx hy hclear hrange hexec
  obtain ⟨-, hfirst, -⟩ := drawRule x y n s
  obtain ⟨t', hexec', hcovered, huncovered, -, hmiss, hregs, hmem, -, hframe⟩ := hfirst hrange
  obtain rfl : t = t' := by simpa [hexec] using hexec'
  have hi : t.i = s.i := by rw [hframe]
  have hcovers : t.drwCovers x y n = s.drwCovers x y n := by
    rw [State.drwCovers, hregs x (by simpa using hx), hregs y (by simpa using hy), spriteCovers_congr hmem hi]
  have hset {px py} (h : s.drwCovers x y n px py) : pixel t.fb px py = true := by
    rw [hcovered px py h, hclear, Bool.not_false]
  obtain ⟨-, hsecond, -⟩ := drawRule x y n t
  simp only [hcovers] at hsecond
  obtain ⟨u, hexecAgain, htoggledBack, hkept, hhit, -⟩ := hsecond (hi ▸ hrange)
  refine ⟨fun px py => ⟨fun hp => ?_, hset⟩, hmiss ?_, u, hexecAgain, framebuffer_ext fun px py => ?_, ?_⟩
  · by_contra h
    simp [huncovered px py h, hclear] at hp
  · rintro ⟨px, py, -, hp⟩
    simp [hclear] at hp
  · by_cases h : s.drwCovers x y n px py
    · rw [htoggledBack px py h, hcovered px py h, Bool.not_not]
    · rw [hkept px py h, huncovered px py h]
  · rintro ⟨px, py, h⟩
    exact hhit ⟨px, py, h, hset h⟩

end Sys2Proof.Machine
end

section
/-! Proofs of the timers and keys family (44_timers_keys.md): the key skips, the timer instructions alone and in a step, and
the key wait, from its entry to its end. -/

namespace Sys2Proof.Machine

variable {s t : State} {x : Reg}

/-! ### The step by mode (70_reset_and_hazards.md R358, 44_timers_keys.md R255) -/

/-- A Running core inside the RAM executes what it fetches, after the sampling and the timer service. -/
theorem step_of_decoded {i : Instr} (hrun : s.mode = .running) (hpc : s.pc.toNat < 4095)
    (hdecode : decodeWord s.fetchWord = .ok i) : step s = exec i s.beginIteration := by
  have hfetch : ¬ s.beginIteration.pc.toNat ≥ ramSize - 1 := Nat.not_le.mpr hpc
  have hdecode' : decodeWord s.beginIteration.fetchWord = .ok i := hdecode
  unfold step
  rw [hrun]
  simp only [State.fetchAndExecute, if_neg hfetch, hdecode']

theorem step_of_keyWait (hwait : s.mode = .keyWait x) : step s = .next (s.sampleInputs.keyWaitStep x) := by
  unfold step
  rw [hwait]

/-! ### The key wait (44_timers_keys.md R254, R255) -/

/-- A drawn key is written to Vx and ends the wait. -/
theorem State.keyWaitStep_of_draw {k : Key} (hdraw : drawHeldKey s.pins = some k) :
    s.keyWaitStep x =
      { s with v := s.v.set x (BitVec.ofNat 8 k.val), pc := s.pc + 2, mode := .running } := by
  unfold State.keyWaitStep
  rw [hdraw]
  rfl

theorem State.keyWaitStep_of_noKey (hnone : s.pins.keyHeld = 0) : s.keyWaitStep x = s := by
  unfold State.keyWaitStep
  rw [drawHeldKey_none.mpr hnone]

/-- No key wait services a tick: the timers stand still whether it ends or goes on. -/
theorem State.keyWaitStep_keepsTimers (s : State) (x : Reg) :
    (s.keyWaitStep x).dt = s.dt ∧ (s.keyWaitStep x).st = s.st := by
  obtain ⟨-, hkeep⟩ | ⟨k, -, hkey⟩ := s.keyWaitStep_cases x
  · rw [hkeep]
    exact ⟨rfl, rfl⟩
  · rw [hkey]
    exact ⟨rfl, rfl⟩

/-- Settles O10: the draw answers a key exactly if one is held, always a held one, and the preferred one if it is held. -/
theorem keyWaitStepRule : Obligations.KeyWaitStepRule := by
  intro s x hwait
  rw [step_of_keyWait hwait]
  refine ⟨⟨rfl, rfl, rfl⟩, fun hnone => ?_, fun hheld => ?_, fun hchoice => ?_⟩
  · rw [State.keyWaitStep_of_noKey hnone]
  · obtain ⟨k, hdraw⟩ := Option.ne_none_iff_exists'.mp (mt drawHeldKey_none.mp hheld)
    exact ⟨k, drawHeldKey_held hdraw, by rw [State.keyWaitStep_of_draw hdraw]⟩
  · rw [State.keyWaitStep_of_draw (drawHeldKey_choice hchoice)]

/-- Settles O52: LD Vx, K writes the mode alone. -/
theorem enterKeyWaitRule : Obligations.EnterKeyWaitRule := fun x _ =>
  ⟨decodeWord_of_eq_encode (ofNat_formatX 0xF#4 0x0A#8 x) rfl, rfl⟩

/-! ### The timers in one step (44_timers_keys.md R258, 70_reset_and_hazards.md R362) -/

/-- A timer that a step services if a tick is pending falls by at most one and never rises. -/
theorem timer_fallsByAtMostOne (tick : Bool) (b : Byte) :
    let after := if tick then timerAfterTick b else b
    after.toNat ≤ b.toNat ∧ b.toNat ≤ after.toNat + 1 := by
  cases tick with
  | false => exact ⟨le_rfl, Nat.le_succ _⟩
  | true =>
    simp only [if_true, timerAfterTick_toNat]
    omega

/-- After the timer service DT stands unless an `Fx15` is decoded, and ST unless an `Fx18` is. -/
theorem State.fetchAndExecute_keepsTimers (h : s.fetchAndExecute = .next t) :
    ((∀ x, decodeWord s.fetchWord ≠ .ok (.ldDtVx x)) → t.dt = s.dt) ∧
    ((∀ x, decodeWord s.fetchWord ≠ .ok (.ldStVx x)) → t.st = s.st) := by
  obtain ⟨-, rfl⟩ | ⟨-, e, -, rfl⟩ | ⟨-, i, hdecode, hexec⟩ := State.fetchAndExecute_cases h
  · exact ⟨fun _ => rfl, fun _ => rfl⟩
  · exact ⟨fun _ => rfl, fun _ => rfl⟩
  · obtain ⟨-, hdelay, hsound, -⟩ := writersOfTheSpecialState i s t hexec
    refine ⟨fun hnot => by_contra fun hdt => ?_, fun hnot => by_contra fun hst => ?_⟩
    · obtain ⟨x, rfl⟩ := hdelay hdt
      exact hnot x hdecode
    · obtain ⟨x, rfl⟩ := hsound hst
      exact hnot x hdecode

/-- Settles O59: in an iteration an unwritten timer is as its tick service left it, in a key wait as before. -/
theorem timersFallByAtMostOne : Obligations.TimersFallByAtMostOne := by
  intro s t h
  obtain ⟨hrun, hiter⟩ | ⟨x, hwait, rfl⟩ := step_cases h
  · obtain ⟨hdelay, hsound⟩ := State.fetchAndExecute_keepsTimers hiter
    refine ⟨fun _ hnot => ?_, fun _ hnot => ?_, fun x hwait => by simp [hrun] at hwait⟩
    · rw [hdelay hnot]
      exact timer_fallsByAtMostOne s.sampleInputs.tickPending s.dt
    · rw [hsound hnot]
      exact timer_fallsByAtMostOne s.sampleInputs.tickPending s.st
  · exact ⟨fun hrun => by simp [hwait] at hrun, fun hrun => by simp [hwait] at hrun,
      fun _ _ => s.sampleInputs.keyWaitStep_keepsTimers x⟩

/-! ### The timer instructions (44_timers_keys.md R253, R256, R257) -/

/-- Settles O50: each instruction runs on the state its step's tick service left, so Fx07 reads the serviced DT and Fx15
overwrites it. -/
theorem delayTimerRule : Obligations.DelayTimerRule := by
  intro x s
  refine ⟨decodeWord_of_eq_encode (ofNat_formatX 0xF#4 0x07#8 x) rfl,
    decodeWord_of_eq_encode (ofNat_formatX 0xF#4 0x15#8 x) rfl,
    ⟨_, rfl, s.readReg_writeReg_self x s.dt, rfl, s.writeReg_advance_onlyRegsAndPc x s.dt⟩, rfl,
    fun hrun hpc hdecode => ?_, fun hrun hpc hdecode => ?_⟩
  · exact ⟨_, step_of_decoded hrun hpc hdecode, s.beginIteration.readReg_writeReg_self x _⟩
  · exact ⟨_, step_of_decoded hrun hpc hdecode, rfl⟩

/-- Settles O51: only a nonzero Vx starts the tone; the value stored is Vx in both cases. -/
theorem soundTimerRule : Obligations.SoundTimerRule := by
  intro x s
  obtain ⟨t, hexec⟩ := exec_next (.ldStVx x) s
  refine ⟨decodeWord_of_eq_encode (ofNat_formatX 0xF#4 0x18#8 x) rfl, ?_⟩
  obtain ⟨hzero, rfl⟩ | ⟨hne, rfl⟩ := execLdStVx_cases s hexec
  · refine ⟨fun hne => absurd hzero hne, fun _ => ?_⟩
    rw [hexec, hzero]
    rfl
  · exact ⟨fun _ => hexec, fun hzero => absurd hzero hne⟩

/-! ### The key skips (44_timers_keys.md R250 to R252) -/

/-- A byte that is a key number does not fault: the skip is taken or not on `cond`. -/
theorem State.keySkip_of_key {key : Byte} {k : Key} (hk : key.toNat = k.val) (i : Instr) (cond : Bool) :
    s.keySkip key i cond = .next (s.skipWhen cond) := by
  have hle : ¬ key.toNat > 15 := by omega
  rw [State.keySkip, if_neg hle]

theorem State.keySkip_of_invalidKey {key : Byte} (hinvalid : key.toNat > 15) (i : Instr) (cond : Bool) :
    s.keySkip key i cond = .next (s.raise (.invalidKey key) (some (encode i))) := if_pos hinvalid

/-- A byte that is a key number asks the port for that key. -/
theorem State.isKeyHeld_of_key {key : Byte} {k : Key} (hk : key.toNat = k.val) :
    s.isKeyHeld key = s.pins.keyHeld.getLsbD k.val := by
  rw [State.isKeyHeld, hk]

/-- A skip on the negation is the skip the other way round. -/
theorem State.skipWhen_not (cond : Bool) :
    s.skipWhen (!cond) = { s with pc := s.pc + if cond then 2 else 4 } := by
  cases cond <;> rfl

/-- Settles O49: a key number answers the port's `isKeyHeld`, and a byte above 15 faults with the word of the
instruction. -/
theorem skipKeyRule : Obligations.SkipKeyRule := by
  intro x s
  have hskp : BitVec.ofNat 16 (0xE09E + 256 * x.val) = encode (.skp x) := ofNat_formatX 0xE#4 0x9E#8 x
  have hsknp : BitVec.ofNat 16 (0xE0A1 + 256 * x.val) = encode (.sknp x) := ofNat_formatX 0xE#4 0xA1#8 x
  refine ⟨decodeWord_of_eq_encode hskp rfl, decodeWord_of_eq_encode hsknp rfl, fun k hk => ⟨?_, ?_⟩,
    fun hinvalid => ?_⟩
  · rw [← State.isKeyHeld_of_key hk]
    exact State.keySkip_of_key hk _ _
  · rw [← State.isKeyHeld_of_key hk, ← State.skipWhen_not]
    exact State.keySkip_of_key hk _ _
  · rw [hskp, hsknp]
    exact ⟨State.keySkip_of_invalidKey hinvalid _ _, State.keySkip_of_invalidKey hinvalid _ _⟩

end Sys2Proof.Machine
end

section
/-! Proofs of the exceptions family (60_exceptions.md): which instruction raises which fault, that a fault changes nothing
but the mode and its record, that no step and no host operation leaves it, and the port events of an instruction. -/

namespace Sys2Proof.Machine

variable {s t : State} {i : Instr} {r : FaultRecord}

/-! ### Which instruction raises which fault (60_exceptions.md R304) -/

/-- The instruction raises a fault of this kind in the state `s`. `exec_faultRecord` ties it to `exec`. -/
inductive Raises (s : State) : Instr → FaultKind → Prop
  | ret (hempty : s.sp.val = 0) : Raises s .ret .stackUnderflow
  | call (nnn : Addr12) (hfull : s.sp.val = 16) : Raises s (.call nnn) .stackOverflow
  | skp (x : Reg) (hinvalid : (s.readReg x).toNat > 15) : Raises s (.skp x) (.invalidKey (s.readReg x))
  | sknp (x : Reg) (hinvalid : (s.readReg x).toNat > 15) : Raises s (.sknp x) (.invalidKey (s.readReg x))
  | ldB (x : Reg) (hout : s.i.toNat + 2 ≥ 4096) : Raises s (.ldB x) (.memoryOutOfRange (max s.i.toNat 4096))
  | storeRegs (x : Reg) (hout : s.i.toNat + x.val ≥ 4096) :
      Raises s (.storeRegs x) (.memoryOutOfRange (max s.i.toNat 4096))
  | loadRegs (x : Reg) (hout : s.i.toNat + x.val ≥ 4096) :
      Raises s (.loadRegs x) (.memoryOutOfRange (max s.i.toNat 4096))
  /-- `last` is the offset of the last sprite row; a draw of no rows has none (43_display.md R232) -/
  | drw (x y : Reg) {n : Nibble} {last : Nat} (hn : n.toNat = last + 1) (hout : s.i.toNat + last ≥ 4096) :
      Raises s (.drw x y n) (.memoryOutOfRange (max s.i.toNat 4096))

/-- `t` is `s` after a fault of the instruction `i`, entered with its word (60_exceptions.md R305). -/
def FaultedBy (s : State) (i : Instr) (t : State) : Prop :=
  ∃ kind, Raises s i kind ∧ t = s.raise kind (some (encode i))

theorem State.faultRecord_eq_some : s.faultRecord = some r ↔ s.mode = .faulted r := by
  unfold State.faultRecord
  split <;> simp_all

theorem State.faultRecord_writeFlagged (s : State) (x : Reg) (result flag : Byte) :
    (s.writeFlagged x result flag).faultRecord = s.faultRecord := by
  rw [State.writeFlagged_eq]
  rfl

/-- An instruction that answers `u` outright has not faulted if `u` has no record. -/
theorem faultRecord_of_next {u : State} (h : (.next u : Result) = .next t) (hu : u.faultRecord = none) :
    t.faultRecord = none := by
  injection h with h
  exact h ▸ hu

/-- A checked access faults only if its last byte, at the offset `last`, is out of range. -/
theorem State.accessing_faultRecord {len : Nat} {done : State} (h : s.accessing len i done = .next t)
    (hdone : done.faultRecord = none)
    (hraises : ∀ last, len = last + 1 → s.i.toNat + last ≥ 4096 → Raises s i (.memoryOutOfRange (max s.i.toNat 4096))) :
    t.faultRecord = none ∨ FaultedBy s i t := by
  obtain ⟨hpos, hout, rfl⟩ | ⟨-, rfl⟩ := s.accessing_cases h
  · exact .inr ⟨_, hraises (len - 1) (by omega) (by omega), rfl⟩
  · exact .inl hdone

/-- A key skip faults only on a byte above 15. -/
theorem State.keySkip_faultRecord {key : Byte} {cond : Bool} (h : s.keySkip key i cond = .next t)
    (hs : s.faultRecord = none) (hraises : key.toNat > 15 → Raises s i (.invalidKey key)) :
    t.faultRecord = none ∨ FaultedBy s i t := by
  obtain ⟨hinvalid, rfl⟩ | ⟨-, rfl⟩ := s.keySkip_cases h
  · exact .inr ⟨_, hraises hinvalid, rfl⟩
  · exact .inl hs

/-- From a core that has not faulted, an instruction answers one that has not, or raises one of its faults. -/
theorem exec_faultRecord (hs : s.faultRecord = none) (h : exec i s = .next t) :
    t.faultRecord = none ∨ FaultedBy s i t := by
  cases i with
  | ret =>
    obtain ⟨hempty, rfl⟩ | ⟨j, -, rfl⟩ := execRet_cases s h
    · exact .inr ⟨_, .ret hempty, rfl⟩
    · exact .inl hs
  | call nnn =>
    obtain ⟨hfull, rfl⟩ | ⟨j, -, rfl⟩ := execCall_cases s h
    · exact .inr ⟨_, .call nnn hfull, rfl⟩
    · exact .inl hs
  | skp x => exact State.keySkip_faultRecord h hs (.skp x)
  | sknp x => exact State.keySkip_faultRecord h hs (.sknp x)
  | ldB x =>
    refine State.accessing_faultRecord h hs fun last hlast hout => .ldB x ?_
    omega
  | storeRegs x =>
    refine State.accessing_faultRecord h hs fun last hlast hout => .storeRegs x ?_
    omega
  | loadRegs x =>
    refine State.accessing_faultRecord h hs fun last hlast hout => .loadRegs x ?_
    omega
  | drw x y n => exact State.accessing_faultRecord h hs fun _ => .drw x y
  | ldStVx x =>
    obtain ⟨-, rfl⟩ | ⟨-, rfl⟩ := execLdStVx_cases s h <;> exact .inl hs
  | addReg x y | subReg x y | shr x y | subn x y | shl x y =>
    exact .inl (faultRecord_of_next h ((s.faultRecord_writeFlagged x _ _).trans hs))
  | ldVxK x => exact .inl (faultRecord_of_next h rfl)
  | _ => exact .inl (faultRecord_of_next h hs)

/-- An instruction that faults has raised one of its faults. -/
theorem exec_faultedBy (hs : s.faultRecord = none) (h : exec i s = .next t) (ht : t.faultRecord = some r) :
    FaultedBy s i t := by
  obtain hnone | hfault := exec_faultRecord hs h
  · rw [hnone] at ht
    cases ht
  · exact hfault

/-- Settles O13: fault entry writes `pc` and the word into the record, and each fault has its instruction and condition. -/
theorem onlyTheListedInstructionsFault : Obligations.OnlyTheListedInstructionsFault := by
  intro i s t r hs hexec ht
  obtain ⟨kind, hraises, rfl⟩ := exec_faultedBy hs hexec ht
  obtain rfl : _ = r := Option.some.inj ht
  refine ⟨rfl, rfl, ?_⟩
  cases hraises with
  | ret hempty => exact .inl ⟨rfl, hempty, rfl⟩
  | call nnn hfull => exact .inr (.inl ⟨nnn, rfl, hfull, rfl⟩)
  | skp x hinvalid => exact .inr (.inr (.inl ⟨x, .inl rfl, hinvalid, rfl⟩))
  | sknp x hinvalid => exact .inr (.inr (.inl ⟨x, .inr rfl, hinvalid, rfl⟩))
  | ldB x hout => exact .inr (.inr (.inr ⟨2, rfl, hout, .inl ⟨x, rfl, rfl⟩⟩))
  | storeRegs x hout => exact .inr (.inr (.inr ⟨x.val, rfl, hout, .inr (.inl ⟨x, .inl rfl, rfl⟩)⟩))
  | loadRegs x hout => exact .inr (.inr (.inr ⟨x.val, rfl, hout, .inr (.inl ⟨x, .inr rfl, rfl⟩)⟩))
  | drw x y hn hout => exact .inr (.inr (.inr ⟨_, rfl, hout, .inr (.inr ⟨x, y, _, rfl, hn⟩)⟩))

/-! ### A fault is precise (60_exceptions.md R306) -/

/-- The fetch, the decode and the instruction fault by fault entry alone. -/
theorem State.fetchAndExecute_eq_raise (hs : s.faultRecord = none) (h : s.fetchAndExecute = .next t)
    (ht : t.faultRecord = some r) : ∃ kind word, t = s.raise kind word := by
  obtain ⟨-, hraise⟩ | ⟨-, e, -, hraise⟩ | ⟨-, i, -, hexec⟩ := State.fetchAndExecute_cases h
  · exact ⟨_, _, hraise⟩
  · exact ⟨_, _, hraise⟩
  · obtain ⟨kind, -, hraise⟩ := exec_faultedBy hs hexec ht
    exact ⟨_, _, hraise⟩

/-- Settles O12: the state the timer service left enters the fault, which writes the mode alone, and neither the sampling
nor the service moves `pc`. -/
theorem faultsArePrecise : Obligations.FaultsArePrecise := by
  intro s t r hrun hstep ht
  obtain ⟨-, hiter⟩ | ⟨x, hwait, -⟩ := step_cases hstep
  · have hnone : s.beginIteration.faultRecord = none :=
      State.faultRecord_eq_none.mpr fun r hfaulted => by simp [hrun] at hfaulted
    obtain ⟨kind, word, rfl⟩ := State.fetchAndExecute_eq_raise hnone hiter (State.faultRecord_eq_some.mpr ht)
    obtain rfl : _ = r := Mode.faulted.inj ht
    exact ⟨rfl, rfl⟩
  · simp [hrun] at hwait

/-! ### Faulted is terminal (60_exceptions.md R305, R307) -/

theorem step_of_faulted (h : s.mode = .faulted r) : step s = .fault (.terminated r) := by
  unfold step
  rw [h]

theorem hostLoad_of_faultRecord (h : s.faultRecord = some r) (bytes : List Byte) (offset : Nat) :
    hostLoad bytes offset s = .fault (.terminated r) := by
  unfold hostLoad
  rw [h]

theorem hostStart_of_faultRecord (h : s.faultRecord = some r) (start : Word) :
    hostStart start s = .fault (.terminated r) := by
  unfold hostStart
  rw [h]

/-- Settles O11: the step looks at the mode first and the host operations at the record, which the mode holds. -/
theorem faultedIsTerminal : Obligations.FaultedIsTerminal := by
  intro s r hfaulted
  have hrecord : s.faultRecord = some r := State.faultRecord_eq_some.mpr hfaulted
  exact ⟨congrArg Option.isNone hrecord, step_of_faulted hfaulted, hostLoad_of_faultRecord hrecord,
    hostStart_of_faultRecord hrecord⟩

/-! ### The port events of an instruction (60_exceptions.md R320) -/

/-- An `Fx18` that sends an event has read a nonzero Vx (44_timers_keys.md R257). -/
theorem readReg_ne_zero_of_execLdStVx_sends {x : Reg} (h : execLdStVx x s = .next t) (hsends : t.trace ≠ s.trace) :
    s.readReg x ≠ 0 := by
  obtain ⟨-, rfl⟩ | ⟨hne, -⟩ := execLdStVx_cases s h
  · exact absurd rfl hsends
  · exact hne

/-- Settles O57: the effects that send an event are a frame, of CLS or DRW, and the tone of a nonzero `Fx18`. -/
theorem onePortEventPerInstruction : Obligations.OnePortEventPerInstruction := by
  intro i s t h
  cases exec_effect h with
  | frame hi fb v hv => exact .inr (.inl ⟨rfl, hi⟩)
  | tone x =>
    have hsends : s.trace ++ [.startTone] ≠ s.trace := by simp
    exact .inr (.inr ⟨rfl, rfl, x, rfl, readReg_ne_zero_of_execLdStVx_sends h hsends⟩)
  | _ => exact .inl rfl

end Sys2Proof.Machine
end

section
/-! Proofs of the reset and hazards family (70_reset_and_hazards.md): construction, the host's load and start, the step
by mode, the timer service, and the self-jump. -/

namespace Sys2Proof.Machine

variable {s t : State}

/-! ### The timer service (70_reset_and_hazards.md R361, R363) -/

/-- One serviced tick. -/
def State.afterTick (s : State) : State := { s with tickPending := true }.serviceTick

theorem State.dt_afterTick (s : State) : s.afterTick.dt.toNat = s.dt.toNat - 1 :=
  timerAfterTick_toNat s.dt

theorem State.dt_iterate_afterTick (n : Nat) (s : State) : (State.afterTick^[n] s).dt.toNat = s.dt.toNat - n := by
  induction n with
  | zero => rfl
  | succ n ih => rw [Function.iterate_succ_apply', State.dt_afterTick, ih, Nat.sub_sub]

/-- At least as many serviced ticks as DT counts leave it at 0. -/
theorem State.dt_iterate_afterTick_eq_zero {n : Nat} (h : s.dt.toNat ≤ n) : (State.afterTick^[n] s).dt = 0 := by
  apply BitVec.eq_of_toNat_eq
  rw [State.dt_iterate_afterTick]
  exact Nat.sub_eq_zero_of_le h

/-- Settles O8, by induction on the number of serviced ticks. -/
theorem servicedTicksCountDown : Obligations.ServicedTicksCountDown := by
  refine ⟨State.dt_iterate_afterTick, fun s hdt => ?_⟩
  have hfive : s.dt.toNat = 5 := congrArg BitVec.toNat hdt
  exact ⟨State.dt_iterate_afterTick_eq_zero hfive.le, State.dt_iterate_afterTick_eq_zero (by omega)⟩

theorem State.stopsTone_iff : s.stopsTone = true ↔ s.tickPending = true ∧ s.st = 1 := by
  simp [State.stopsTone]

/-- Without a pending tick the service writes back what it reads. -/
theorem State.serviceTick_of_noTick (htick : s.tickPending = false) : s.serviceTick = s := by
  have hkeeps : s.stopsTone = false := by simp [State.stopsTone, htick]
  calc s.serviceTick = { s with tickPending := false } := by simp [State.serviceTick, hkeeps, htick]
    _ = s := by rw [← htick]

/-- Settles O7: a serviced tick stops the tone exactly if it takes ST from 1. -/
theorem tickService : Obligations.TickService := by
  intro s
  refine ⟨State.serviceTick_of_noTick, fun htick => ⟨rfl, ?_, ?_, fun hone => ?_, fun hne => ?_, rfl⟩⟩
  · rw [State.serviceTick_dt, if_pos htick, timerAfterTick_toNat]
  · rw [State.serviceTick_st, if_pos htick, timerAfterTick_toNat]
  · have hstops := State.stopsTone_iff.mpr ⟨htick, hone⟩
    exact ⟨if_pos hstops, if_pos hstops⟩
  · have hkeeps : ¬ s.stopsTone = true := fun hstops => hne (State.stopsTone_iff.mp hstops).2
    exact ⟨if_neg hkeeps, if_neg hkeeps⟩

/-! ### The step by mode (70_reset_and_hazards.md R358) -/

theorem step_of_running (hrun : s.mode = .running) : step s = s.beginIteration.fetchAndExecute := by
  unfold step
  rw [hrun]

/-- The pc check comes before the fetch (60_exceptions.md R302). -/
theorem State.fetchAndExecute_of_pcOutOfRange (hpc : s.pc.toNat ≥ 4095) :
    s.fetchAndExecute = .next (s.raise .programCounterOutOfRange none) := if_pos hpc

/-- A fetched word without an instruction faults with that word (60_exceptions.md R303). -/
theorem State.fetchAndExecute_of_illegal {e : DecodeError} (hpc : s.pc.toNat < 4095)
    (hillegal : decodeWord s.fetchWord = .error e) :
    s.fetchAndExecute = .next (s.raise .illegalInstruction (some s.fetchWord)) := by
  have hfetch : ¬ s.pc.toNat ≥ ramSize - 1 := Nat.not_le.mpr hpc
  simp only [State.fetchAndExecute, if_neg hfetch, hillegal]

/-- Settles O6: a Running step fetches from the state its sampling and its timer service left, which has the `pc` and
the fetched word of `s`. -/
theorem stepRunsTheDecodedInstruction : Obligations.StepRunsTheDecodedInstruction := by
  intro s
  refine ⟨fun hrun => ⟨fun hpc => ?_, fun hpc i => step_of_decoded hrun hpc, fun hpc e hillegal => ?_⟩,
    fun x => step_of_keyWait, fun r => step_of_faulted⟩
  · rw [step_of_running hrun]
    exact State.fetchAndExecute_of_pcOutOfRange hpc
  · rw [step_of_running hrun]
    exact State.fetchAndExecute_of_illegal hpc hillegal

/-! ### The self-jump (70_reset_and_hazards.md R367) -/

/-- What standing at a self-jump means: a Running core inside the RAM whose fetched word is a JP to `pc`. -/
theorem State.jump_of_atSelfJump (h : s.atSelfJump = true) :
    s.mode = .running ∧ s.pc.toNat < 4095 ∧
      ∃ nnn, decodeWord s.fetchWord = .ok (.jp nnn) ∧ addrTarget nnn = s.pc := by
  unfold State.atSelfJump at h
  split at h
  next nnn hrun hdecode =>
    obtain ⟨hpc, htarget⟩ : s.pc.toNat < ramSize - 1 ∧ addrTarget nnn = s.pc := by simpa using h
    exact ⟨hrun, hpc, nnn, hdecode, htarget⟩
  next => cases h

/-- The sampling and the timer service leave the mode, `pc` and the RAM alone, so the core is still at its self-jump. -/
theorem State.atSelfJump_beginIteration (s : State) : s.beginIteration.atSelfJump = s.atSelfJump := rfl

/-- A step from a self-jump samples and services the tick, and no more: the jump writes the `pc` that stands there. -/
theorem step_of_atSelfJump (h : s.atSelfJump = true) : step s = .next s.beginIteration := by
  obtain ⟨hrun, hpc, nnn, hdecode, htarget⟩ := State.jump_of_atSelfJump h
  calc step s = exec (.jp nnn) s.beginIteration := step_of_decoded hrun hpc hdecode
    _ = .next (s.beginIteration.jumpTo (addrTarget nnn)) := rfl
    _ = .next s.beginIteration := by
      rw [htarget]
      rfl

/-- Settles O60: the next state is the one the sampling and the timer service leave. -/
theorem selfJumpKeepsRunning : Obligations.SelfJumpKeepsRunning := fun s h =>
  ⟨s.beginIteration, step_of_atSelfJump h, s.atSelfJump_beginIteration.trans h, rfl, rfl, rfl, rfl⟩

/-! ### Construction (70_reset_and_hazards.md R351) -/

/-- Byte k of glyph g stands at 5·g + k (10_state.md R47). -/
theorem background_glyph (font : Font) (g : Fin 16) (k : Fin 5) : background font (5 * g.val + k.val) = font[g][k] := by
  have hin : 5 * g.val + k.val < 80 := by omega
  have hglyph : (5 * g.val + k.val) / 5 = g.val := by omega
  have hrow : (5 * g.val + k.val) % 5 = k.val := by omega
  rw [background, dif_pos hin]
  simp only [hglyph, hrow, Fin.getElem_fin]

theorem background_aboveFont (font : Font) {a : Nat} (ha : 80 ≤ a) : background font a = 0 := dif_neg (by omega)

/-- The RAM of a constructed machine holds no written byte: it reads as the background everywhere. -/
theorem State.readByte_construct (p : Params) (a : Nat) : (State.construct p).readByte a = background p.font a := rfl

/-- Settles O19: construction writes zeroes, the framebuffer it writes is the cleared one, and its RAM is the font's
background. -/
theorem constructionValues : Obligations.ConstructionValues := by
  intro p
  refine ⟨fun r => ?_, rfl, rfl, rfl, fun j => ?_, rfl, rfl, pixel_clearFramebuffer, fun g k => ?_, fun a ha => ?_,
    rfl, rfl, rfl, rfl, rfl⟩
  · simp [State.readReg, State.construct]
  · simp [State.construct]
  · rw [State.readByte_construct, background_glyph]
  · rw [State.readByte_construct, background_aboveFont p.font ha]

/-! ### The host's load and start (70_reset_and_hazards.md R352, R354) -/

section
variable {bytes : List Byte} {offset : Nat} {start : Word}

/-- A load before the run, on a core that has not faulted, is decided by its bound. -/
theorem hostLoad_beforeStart (hs : s.faultRecord = none) (hbefore : s.runStarted = false) :
    hostLoad bytes offset s =
      if offset + bytes.length > 4096 then .next (s.raiseAtHost (.loadOverflow offset bytes.length))
      else .next (s.storeBytes offset bytes) := by
  unfold hostLoad
  rw [hs, hbefore]
  rfl

/-- A first start, on a core that has not faulted, is decided by its address. -/
theorem hostStart_beforeStart (hs : s.faultRecord = none) (hbefore : s.runStarted = false) :
    hostStart start s =
      if start.toNat ≥ 4096 then .next (s.raiseAtHost (.invalidStartAddress start))
      else .next { s with pc := start, mode := .running, runStarted := true } := by
  unfold hostStart
  rw [hs, hbefore]
  rfl

theorem hostLoad_afterStart (hs : s.faultRecord = none) (hstarted : s.runStarted = true) :
    hostLoad bytes offset s = .refused .loadAfterStart := by
  unfold hostLoad
  rw [hs, hstarted]
  rfl

theorem hostStart_afterStart (hs : s.faultRecord = none) (hstarted : s.runStarted = true) :
    hostStart start s = .refused .startAfterStart := by
  unfold hostStart
  rw [hs, hstarted]
  rfl

/-- What a load that answers a next state has done. -/
theorem hostLoad_cases (h : hostLoad bytes offset s = .next t) :
    (offset + bytes.length > 4096 ∧ t = s.raiseAtHost (.loadOverflow offset bytes.length)) ∨
    (offset + bytes.length ≤ 4096 ∧ t = s.storeBytes offset bytes) := by
  cases hs : s.faultRecord with
  | some r => cases (hostLoad_of_faultRecord hs bytes offset).symm.trans h
  | none =>
    cases hphase : s.runStarted with
    | true => cases (hostLoad_afterStart hs hphase).symm.trans h
    | false =>
      rw [hostLoad_beforeStart hs hphase] at h
      split at h
      next hover => exact .inl ⟨hover, (Host.Outcome.next.inj h).symm⟩
      next hfits => exact .inr ⟨Nat.le_of_not_gt hfits, (Host.Outcome.next.inj h).symm⟩

/-- What a start that answers a next state has done. -/
theorem hostStart_cases (h : hostStart start s = .next t) :
    (start.toNat ≥ 4096 ∧ t = s.raiseAtHost (.invalidStartAddress start)) ∨
    (start.toNat < 4096 ∧ t = { s with pc := start, mode := .running, runStarted := true }) := by
  cases hs : s.faultRecord with
  | some r => cases (hostStart_of_faultRecord hs start).symm.trans h
  | none =>
    cases hphase : s.runStarted with
    | true => cases (hostStart_afterStart hs hphase).symm.trans h
    | false =>
      rw [hostStart_beforeStart hs hphase] at h
      split at h
      next hout => exact .inl ⟨hout, (Host.Outcome.next.inj h).symm⟩
      next hin => exact .inr ⟨Nat.lt_of_not_ge hin, (Host.Outcome.next.inj h).symm⟩

theorem State.raiseAtHost_keepsInv (hs : s.Inv) (kind : FaultKind) : (s.raiseAtHost kind).Inv :=
  { hs with waitPc := fun hwait => nomatch hwait }

theorem State.storeBytes_keepsInv (hs : s.Inv) (hfits : offset + bytes.length ≤ 4096) :
    (s.storeBytes offset bytes).Inv :=
  { hs with memory := Memory.writeBytes_wf _ hs.memory hfits }

/-- A start inside memory puts `pc` below its bound, and a Running core waits for no key. -/
theorem State.started_keepsInv (hs : s.Inv) (hin : start.toNat < 4096) :
    ({ s with pc := start, mode := .running, runStarted := true } : State).Inv :=
  { hs with
    pcBound := hin.le.trans (by decide)
    waitPc := fun hwait => nomatch hwait }

theorem hostLoad_keepsInv (hs : s.Inv) (h : hostLoad bytes offset s = .next t) : t.Inv := by
  obtain ⟨-, rfl⟩ | ⟨hfits, rfl⟩ := hostLoad_cases h
  · exact State.raiseAtHost_keepsInv hs _
  · exact State.storeBytes_keepsInv hs hfits

theorem hostStart_keepsInv (hs : s.Inv) (h : hostStart start s = .next t) : t.Inv := by
  obtain ⟨-, rfl⟩ | ⟨hin, rfl⟩ := hostStart_cases h
  · exact State.raiseAtHost_keepsInv hs _
  · exact State.started_keepsInv hs hin

end

/-- Settles O17: a load stores inside the RAM or faults, a start sets `pc` inside memory or faults. -/
theorem hostOperationsKeepTheInvariant : Obligations.HostOperationsKeepTheInvariant := fun _ _ hs =>
  ⟨fun _ _ => hostLoad_keepsInv hs, fun _ => hostStart_keepsInv hs⟩

/-- Settles O20: a load that fits is a store, which reads back inside and keeps what is outside. -/
theorem hostLoadRule : Obligations.HostLoadRule := by
  intro bytes offset s hm hs hbefore
  rw [hostLoad_beforeStart hs hbefore]
  refine ⟨fun hover => ⟨_, if_pos hover, rfl⟩, fun hfits => ⟨_, if_neg (Nat.not_lt.mpr hfits), ?_, ?_, rfl⟩⟩
  · exact fun k => State.readByte_storeBytes_inside hm offset
  · exact State.storeBytes_sameMemoryOutside hm offset bytes

/-- Settles O21: the run phase is looked at before the address. -/
theorem hostStartRule : Obligations.HostStartRule := by
  intro start s hs
  refine ⟨fun hbefore hout => ?_, fun hbefore hin => ?_, hostStart_afterStart hs,
    fun hstarted _ _ => hostLoad_afterStart hs hstarted⟩
  · rw [hostStart_beforeStart hs hbefore]
    exact if_pos hout
  · rw [hostStart_beforeStart hs hbefore]
    exact if_neg (Nat.not_le.mpr hin)

end Sys2Proof.Machine
end
